-- ==== Sys2Proof/Word.lean ====
section
/-! DEFINITION. The widths of the machine (spec/00_scope.md R5, spec/30_encoding.md R46): a general register and a
memory byte are 8 bits, I, PC, a stack entry and an instruction word are 16 bits, and a register or key index is one
of sixteen. Everything is unsigned (R48, R85). -/

namespace Sys2Proof

/-- A memory byte or the content of a general register (R5: `XLEN` = 8). -/
abbrev Byte := BitVec 8

/-- A 16-bit value: I, PC, a call-stack entry, an instruction word, a fault register (R5, R12, R13, R14, R25). -/
abbrev Word := BitVec 16

/-- One nibble of an instruction word (R46). -/
abbrev Nibble := BitVec 4

/-- The 12-bit address field `nnn` (R46). -/
abbrev Addr12 := BitVec 12

/-- The index of a general register: V0 to VF (R10). -/
abbrev Reg := Fin 16

/-- A logical key index, 0 to 15 (R20). -/
abbrev Key := Fin 16

/-- The flags register VF, V[15] (R11). -/
abbrev vf : Reg := 15

/-- The register V0, read by JP V0,nnn (R10, R69). -/
abbrev v0 : Reg := 0

end Sys2Proof
end

