-- ==== Sys2Proof/Syntax.lean ====
section
/-! DEFINITION. The instructions: one constructor per row of spec/opcode_table.json (spec/30_encoding.md R50), in the
table's order, with the operand fields of R46. -/

namespace Sys2Proof

/-- The 35 instruction forms and the HALT pseudo-form (R50, R52, R57). -/
inductive Instr where
  /-- `0000` HALT, the zero word (R60). -/
  | halt
  /-- `00E0` CLS (R93). -/
  | cls
  /-- `00EE` RET (R62). -/
  | ret
  /-- `0NNN` SYS nnn (R61); nnn is none of 000, 0E0, 0EE. -/
  | sys (nnn : Addr12)
  /-- `1NNN` JP nnn (R63). -/
  | jp (nnn : Addr12)
  /-- `2NNN` CALL nnn (R64). -/
  | call (nnn : Addr12)
  /-- `3XNN` SE Vx, nn (R65). -/
  | seImm (x : Reg) (nn : Byte)
  /-- `4XNN` SNE Vx, nn (R66). -/
  | sneImm (x : Reg) (nn : Byte)
  /-- `5XY0` SE Vx, Vy (R67); `low` is the low nibble, carried by the word and not examined (R53). -/
  | seReg (x y : Reg) (low : Nibble)
  /-- `6XNN` LD Vx, nn (R72). -/
  | ldImm (x : Reg) (nn : Byte)
  /-- `7XNN` ADD Vx, nn (R73). -/
  | addImm (x : Reg) (nn : Byte)
  /-- `8XY0` LD Vx, Vy (R74). -/
  | ldReg (x y : Reg)
  /-- `8XY1` OR Vx, Vy (R75). -/
  | orReg (x y : Reg)
  /-- `8XY2` AND Vx, Vy (R76). -/
  | andReg (x y : Reg)
  /-- `8XY3` XOR Vx, Vy (R77). -/
  | xorReg (x y : Reg)
  /-- `8XY4` ADD Vx, Vy (R78). -/
  | addReg (x y : Reg)
  /-- `8XY5` SUB Vx, Vy (R79). -/
  | subReg (x y : Reg)
  /-- `8XY6` SHR Vx {, Vy} (R80); y is carried by the word and not read (R53). -/
  | shrReg (x y : Reg)
  /-- `8XY7` SUBN Vx, Vy (R81). -/
  | subnReg (x y : Reg)
  /-- `8XYE` SHL Vx {, Vy} (R82); y is carried by the word and not read (R53). -/
  | shlReg (x y : Reg)
  /-- `9XY0` SNE Vx, Vy (R68); `low` is the low nibble, carried by the word and not examined (R53). -/
  | sneReg (x y : Reg) (low : Nibble)
  /-- `ANNN` LD I, nnn (R87). -/
  | ldI (nnn : Addr12)
  /-- `BNNN` JP V0, nnn (R69). -/
  | jpV0 (nnn : Addr12)
  /-- `CXNN` RND Vx, nn (R83). -/
  | rnd (x : Reg) (nn : Byte)
  /-- `DXYN` DRW Vx, Vy, n (R94). -/
  | drw (x y : Reg) (n : Nibble)
  /-- `EX9E` SKP Vx (R97). -/
  | skp (x : Reg)
  /-- `EXA1` SKNP Vx (R98). -/
  | sknp (x : Reg)
  /-- `FX07` LD Vx, DT (R99). -/
  | ldVxDt (x : Reg)
  /-- `FX0A` LD Vx, K (R100). -/
  | ldVxK (x : Reg)
  /-- `FX15` LD DT, Vx (R101). -/
  | ldDtVx (x : Reg)
  /-- `FX18` LD ST, Vx (R102). -/
  | ldStVx (x : Reg)
  /-- `FX1E` ADD I, Vx (R88). -/
  | addI (x : Reg)
  /-- `FX29` LD F, Vx (R89). -/
  | ldF (x : Reg)
  /-- `FX33` LD B, Vx (R90). -/
  | ldB (x : Reg)
  /-- `FX55` LD [I], Vx (R91). -/
  | ldStore (x : Reg)
  /-- `FX65` LD Vx, [I] (R92). -/
  | ldLoad (x : Reg)
deriving DecidableEq, Repr

end Sys2Proof
end

