-- ==== Sys2Proof/Decode.lean ====
section
/-! DEFINITION. Decode and encode (spec/30_encoding.md R45 to R57): the fields of an instruction word, the decoder,
total on the 65536 words and rejecting the undefined ones by name (R49, R51), the encoder, and the mask and match of
each row of the opcode map (R50). Every instruction is one 16-bit word, stored high byte first (R31, R55). -/

namespace Sys2Proof

/-! ## Fields (R46) -/

/-- `op` = w[15:12], the family. -/
def fieldOp (w : Word) : Fin 16 := (w.extractLsb' 12 4).toFin

/-- `x` = w[11:8], the first register index. -/
def fieldX (w : Word) : Reg := (w.extractLsb' 8 4).toFin

/-- `y` = w[7:4], the second register index. -/
def fieldY (w : Word) : Reg := (w.extractLsb' 4 4).toFin

/-- `n` = w[3:0], a count, the selector of family 8, or the unexamined nibble of families 5 and 9. -/
def fieldN (w : Word) : Nibble := w.extractLsb' 0 4

/-- `nn` = w[7:0], an immediate byte, or the selector of families E and F. -/
def fieldNN (w : Word) : Byte := w.extractLsb' 0 8

/-- `nnn` = w[11:0], an address, or the selector of family 0. -/
def fieldNNN (w : Word) : Addr12 := w.extractLsb' 0 12

/-! ## Decode (R49, R51) -/

/-- Why a word is no instruction: the family whose secondary selector matches no form, and that selector (R51). -/
inductive DecodeReject where
  /-- Family 8 with n in 8, 9, A, B, C, D, F. -/
  | undefinedAluSelector (n : Nibble)
  /-- Family E with nn neither 9E nor A1. -/
  | undefinedKeySelector (nn : Byte)
  /-- Family F with nn none of 07, 0A, 15, 18, 1E, 29, 33, 55, 65. -/
  | undefinedMiscSelector (nn : Byte)
deriving DecidableEq, Repr

/-- Family 0: all twelve low bits are the selector; the three exact words come before SYS (R49, R50, R52, R54). -/
def decodeFamily0 (nnn : Addr12) : Instr :=
  if nnn = 0x000#12 then .halt
  else if nnn = 0x0E0#12 then .cls
  else if nnn = 0x0EE#12 then .ret
  else .sys nnn

/-- Family 8: the selector is the low nibble (R49). -/
def decodeFamily8 (x y : Reg) (n : Nibble) : Except DecodeReject Instr :=
  if n = 0x0#4 then .ok (.ldReg x y)
  else if n = 0x1#4 then .ok (.orReg x y)
  else if n = 0x2#4 then .ok (.andReg x y)
  else if n = 0x3#4 then .ok (.xorReg x y)
  else if n = 0x4#4 then .ok (.addReg x y)
  else if n = 0x5#4 then .ok (.subReg x y)
  else if n = 0x6#4 then .ok (.shrReg x y)
  else if n = 0x7#4 then .ok (.subnReg x y)
  else if n = 0xE#4 then .ok (.shlReg x y)
  else .error (.undefinedAluSelector n)

/-- Family E: the selector is the low byte (R49). -/
def decodeFamilyE (x : Reg) (nn : Byte) : Except DecodeReject Instr :=
  if nn = 0x9E#8 then .ok (.skp x)
  else if nn = 0xA1#8 then .ok (.sknp x)
  else .error (.undefinedKeySelector nn)

/-- Family F: the selector is the low byte (R49). -/
def decodeFamilyF (x : Reg) (nn : Byte) : Except DecodeReject Instr :=
  if nn = 0x07#8 then .ok (.ldVxDt x)
  else if nn = 0x0A#8 then .ok (.ldVxK x)
  else if nn = 0x15#8 then .ok (.ldDtVx x)
  else if nn = 0x18#8 then .ok (.ldStVx x)
  else if nn = 0x1E#8 then .ok (.addI x)
  else if nn = 0x29#8 then .ok (.ldF x)
  else if nn = 0x33#8 then .ok (.ldB x)
  else if nn = 0x55#8 then .ok (.ldStore x)
  else if nn = 0x65#8 then .ok (.ldLoad x)
  else .error (.undefinedMiscSelector nn)

/-- The decode function of R49, total on the 65536 words: primary dispatch on the high nibble, a secondary selector in
families 0, 8, E and F only. -/
def decodeWord (w : Word) : Except DecodeReject Instr :=
  match (fieldOp w).val with
  | 0x0 => .ok (decodeFamily0 (fieldNNN w))
  | 0x1 => .ok (.jp (fieldNNN w))
  | 0x2 => .ok (.call (fieldNNN w))
  | 0x3 => .ok (.seImm (fieldX w) (fieldNN w))
  | 0x4 => .ok (.sneImm (fieldX w) (fieldNN w))
  | 0x5 => .ok (.seReg (fieldX w) (fieldY w) (fieldN w))
  | 0x6 => .ok (.ldImm (fieldX w) (fieldNN w))
  | 0x7 => .ok (.addImm (fieldX w) (fieldNN w))
  | 0x8 => decodeFamily8 (fieldX w) (fieldY w) (fieldN w)
  | 0x9 => .ok (.sneReg (fieldX w) (fieldY w) (fieldN w))
  | 0xA => .ok (.ldI (fieldNNN w))
  | 0xB => .ok (.jpV0 (fieldNNN w))
  | 0xC => .ok (.rnd (fieldX w) (fieldNN w))
  | 0xD => .ok (.drw (fieldX w) (fieldY w) (fieldN w))
  | 0xE => decodeFamilyE (fieldX w) (fieldNN w)
  | _ => decodeFamilyF (fieldX w) (fieldNN w) -- 0xF, the one value of a 4-bit field left

/-- The instruction word of two consecutive bytes, big-endian: the byte at the lower address is w[15:8] (R31). -/
def composeWord (hi lo : Byte) : Word := hi ++ lo

/-- Decode the two bytes of an instruction as they lie in memory, the lower address first (R31, R45). -/
def decodeBytes (hi lo : Byte) : Except DecodeReject Instr := decodeWord (composeWord hi lo)

/-! ## Encode (R47) -/

/-- Format A: `oNNN`. -/
def encodeA (op : Nibble) (nnn : Addr12) : Word := op ++ nnn

/-- Format I: `oXNN`; format U is the same with the selector byte as nn. -/
def encodeI (op : Nibble) (x : Reg) (nn : Byte) : Word := op ++ (BitVec.ofFin x : Nibble) ++ nn

/-- Formats R, C and D: `oXYn`. -/
def encodeR (op : Nibble) (x y : Reg) (n : Nibble) : Word :=
  op ++ (BitVec.ofFin x : Nibble) ++ (BitVec.ofFin y : Nibble) ++ n

/-- The word of an instruction (R47, R50). -/
def encode : Instr → Word
  | .halt => 0x0000#16
  | .cls => 0x00E0#16
  | .ret => 0x00EE#16
  | .sys nnn => encodeA 0x0#4 nnn
  | .jp nnn => encodeA 0x1#4 nnn
  | .call nnn => encodeA 0x2#4 nnn
  | .seImm x nn => encodeI 0x3#4 x nn
  | .sneImm x nn => encodeI 0x4#4 x nn
  | .seReg x y low => encodeR 0x5#4 x y low
  | .ldImm x nn => encodeI 0x6#4 x nn
  | .addImm x nn => encodeI 0x7#4 x nn
  | .ldReg x y => encodeR 0x8#4 x y 0x0#4
  | .orReg x y => encodeR 0x8#4 x y 0x1#4
  | .andReg x y => encodeR 0x8#4 x y 0x2#4
  | .xorReg x y => encodeR 0x8#4 x y 0x3#4
  | .addReg x y => encodeR 0x8#4 x y 0x4#4
  | .subReg x y => encodeR 0x8#4 x y 0x5#4
  | .shrReg x y => encodeR 0x8#4 x y 0x6#4
  | .subnReg x y => encodeR 0x8#4 x y 0x7#4
  | .shlReg x y => encodeR 0x8#4 x y 0xE#4
  | .sneReg x y low => encodeR 0x9#4 x y low
  | .ldI nnn => encodeA 0xA#4 nnn
  | .jpV0 nnn => encodeA 0xB#4 nnn
  | .rnd x nn => encodeI 0xC#4 x nn
  | .drw x y n => encodeR 0xD#4 x y n
  | .skp x => encodeI 0xE#4 x 0x9E#8
  | .sknp x => encodeI 0xE#4 x 0xA1#8
  | .ldVxDt x => encodeI 0xF#4 x 0x07#8
  | .ldVxK x => encodeI 0xF#4 x 0x0A#8
  | .ldDtVx x => encodeI 0xF#4 x 0x15#8
  | .ldStVx x => encodeI 0xF#4 x 0x18#8
  | .addI x => encodeI 0xF#4 x 0x1E#8
  | .ldF x => encodeI 0xF#4 x 0x29#8
  | .ldB x => encodeI 0xF#4 x 0x33#8
  | .ldStore x => encodeI 0xF#4 x 0x55#8
  | .ldLoad x => encodeI 0xF#4 x 0x65#8

/-! ## The opcode map's rows (R50), transcribed apart from the decoder so that the two can be held against each other -/

/-- The `mask` of the instruction's row in R50. -/
def opcodeMask : Instr → Word
  | .halt | .cls | .ret => 0xFFFF#16
  | .sys _ | .jp _ | .call _ | .seImm _ _ | .sneImm _ _ | .seReg _ _ _ | .ldImm _ _ | .addImm _ _ | .sneReg _ _ _
  | .ldI _ | .jpV0 _ | .rnd _ _ | .drw _ _ _ => 0xF000#16
  | .ldReg _ _ | .orReg _ _ | .andReg _ _ | .xorReg _ _ | .addReg _ _ | .subReg _ _ | .shrReg _ _ | .subnReg _ _
  | .shlReg _ _ => 0xF00F#16
  | .skp _ | .sknp _ | .ldVxDt _ | .ldVxK _ | .ldDtVx _ | .ldStVx _ | .addI _ | .ldF _ | .ldB _ | .ldStore _
  | .ldLoad _ => 0xF0FF#16

/-- The `match` of the instruction's row in R50. -/
def opcodeMatch : Instr → Word
  | .halt => 0x0000#16
  | .cls => 0x00E0#16
  | .ret => 0x00EE#16
  | .sys _ => 0x0000#16
  | .jp _ => 0x1000#16
  | .call _ => 0x2000#16
  | .seImm _ _ => 0x3000#16
  | .sneImm _ _ => 0x4000#16
  | .seReg _ _ _ => 0x5000#16
  | .ldImm _ _ => 0x6000#16
  | .addImm _ _ => 0x7000#16
  | .ldReg _ _ => 0x8000#16
  | .orReg _ _ => 0x8001#16
  | .andReg _ _ => 0x8002#16
  | .xorReg _ _ => 0x8003#16
  | .addReg _ _ => 0x8004#16
  | .subReg _ _ => 0x8005#16
  | .shrReg _ _ => 0x8006#16
  | .subnReg _ _ => 0x8007#16
  | .shlReg _ _ => 0x800E#16
  | .sneReg _ _ _ => 0x9000#16
  | .ldI _ => 0xA000#16
  | .jpV0 _ => 0xB000#16
  | .rnd _ _ => 0xC000#16
  | .drw _ _ _ => 0xD000#16
  | .skp _ => 0xE09E#16
  | .sknp _ => 0xE0A1#16
  | .ldVxDt _ => 0xF007#16
  | .ldVxK _ => 0xF00A#16
  | .ldDtVx _ => 0xF015#16
  | .ldStVx _ => 0xF018#16
  | .addI _ => 0xF01E#16
  | .ldF _ => 0xF029#16
  | .ldB _ => 0xF033#16
  | .ldStore _ => 0xF055#16
  | .ldLoad _ => 0xF065#16

/-! ## The host's numbering of the table's words -/

/-- The 16-bit word the host means by the numeral w of nbits bits: every bit from nbits up is 0. -/
def tableWord (nbits w : Nat) : Word := BitVec.ofNat 16 (w % 2 ^ nbits)

/-- The high byte of an instruction word, which lies at the lower address (R31). -/
def highByte (w : Word) : Byte := w.extractLsb' 8 8

/-- The low byte of an instruction word, which lies at the higher address (R31). -/
def lowByte (w : Word) : Byte := w.extractLsb' 0 8

/-- What the decoder reads from an instruction whose bits are w, laid out in memory high byte first. -/
def decodeTableWord (nbits w : Nat) : Option Instr :=
  match decodeBytes (highByte (tableWord nbits w)) (lowByte (tableWord nbits w)) with
  | .ok i => some i
  | .error _ => none

end Sys2Proof
end

