-- ==== Sys2Proof/Config.lean ====
section
/-! DEFINITION. What the spec fixes for every machine (spec/00_scope.md R5), the named parameters it leaves open
(R5; spec/92_eei_decisions.md section 1), and the free values. -/

namespace Sys2Proof.Config

/-- `MEM_SIZE`: the number of bytes of memory (R5, R18). -/
def memSize : Nat := 4096

/-- `PROG_BASE`, where the image is loaded and execution begins (R5, R36, R144). -/
def progBase : Nat := 0x200

/-- `IMG_MAX`, the largest image: 4096 - 0x200 = 3584 bytes (R5, R142). -/
def imgMax : Nat := memSize - progBase

/-- `ADDR_POLICY`: what an access at a byte address of 4096 or more does (R5, R32; decision D11). -/
inductive AddrPolicy where
  /-- The normative default: the access is fatal (AddressFault). -/
  | fault
  /-- The alternative: the address is reduced modulo 4096. -/
  | wrap4096
deriving DecidableEq, Repr

/-- `VF_ORDER`: which of the two writes of a flag-writing instruction lands last, which matters when its destination
is VF itself (R5, R84; decision D8). -/
inductive VfOrder where
  /-- The default: the result first, the flag last. -/
  | flagLast
  /-- The alternative: the flag first, the result, computed from the latched operands, last. -/
  | flagFirst
deriving DecidableEq, Repr

/-- `SYS_POLICY`: what a 0NNN word does (R5, R54, R61; decision D3). -/
inductive SysPolicy where
  /-- The default: DecodeFault. -/
  | fault
  /-- The alternative: no operation. -/
  | nop
deriving DecidableEq, Repr

/-- The open parameters of R5. They are fixed while a machine lives: no step changes them (Safety.lean, `Inv`, and the
statement `StepKeepsParameters`). State holds them, so that a statement about every state is one about every value of
every parameter. -/
structure Params where
  /-- `T_INSTR`, the instruction-clock period in units of NOW; positive. -/
  tInstr : Nat
  /-- `T_TIMER`, the timer-clock period in units of NOW; positive. -/
  tTimer : Nat
  /-- `ADDR_POLICY`. -/
  addrPolicy : AddrPolicy
  /-- `VF_ORDER`. -/
  vfOrder : VfOrder
  /-- `SYS_POLICY`. -/
  sysPolicy : SysPolicy
deriving DecidableEq, Repr

/-- The parameters at the defaults of R5; the two periods at the nominal values that decision D24 gives for a host
that counts microseconds. DESIGN CHOICE, unsafe: the spec gives the periods no default (notes/assumptions/2.md). -/
def Params.default : Params :=
  { tInstr := 1850, tTimer := 16667, addrPolicy := .fault, vfOrder := .flagLast, sysPolicy := .fault }

/-- FREE VALUE. The byte the `RND` port answers at the n-th draw whose byte the host has not listed: "a draw under no
law" (R83, R134; decision D32; U10). It has no body: nothing constrains it (notes/assumptions/5.md). -/
opaque rndByte : Nat → Byte

end Sys2Proof.Config
end

