-- ==== Sys2Proof/Machine/State.lean ====
section
/-! DEFINITION. The state of the CORE: every item of spec/10_state.md R10 to R25 (summary table of its section 1), and
apart from them the model's own record of what stands outside the block (R26): the parameters, the host's input and
the random bytes. State is plain data. -/

namespace Sys2Proof.Machine

/-- Memory: the bytes that differ from what an unlisted address reads as, by strictly rising address
(Machine/Ops.lean, `memRead`, `memDefault`, `Memory.wf`). -/
abbrev Memory := List Host.Cell

/-- The display buffer: 32 rows of 64 one-bit pixels; bit c of row r is `DISP[r][c]` (R19, R133). -/
abbrev Display := Vector (BitVec 64) 32

/-- The causes a fatal condition records in `FAULT_CAUSE`, a 3-bit register (R25, R111). Its codes are in
Machine/Ports.lean. -/
inductive FaultCause where
  /-- Code 0: no fault. -/
  | noFault
  /-- Code 1: an undefined word, or a SYS word, was executed (R112). -/
  | decodeFault
  /-- Code 2: RET with SP = 0 (R113). -/
  | stackUnderflow
  /-- Code 3: CALL with SP = 16 (R114). -/
  | stackOverflow
  /-- Code 4: a byte address of 4096 or more was touched (R115). -/
  | addressFault
  /-- Code 5: SKP or SKNP with a key index above 15 (R116). -/
  | keyIndexFault
deriving DecidableEq, Repr

/-- The input events of an iteration (R6 `EVENTS`, R124). -/
inductive Event where
  /-- Logical key k goes down. -/
  | keyPress (k : Key)
  /-- Logical key k goes up. -/
  | keyRelease (k : Key)
  /-- The pause/resume toggle (R127). -/
  | pauseToggle
  /-- The single-step request (R128). -/
  | singleStep
  /-- The exit request (R124). -/
  | exitRequest
deriving DecidableEq, Repr

/-- What the host does to the block at one step of the model: strobe `ITER`, or assert `RESET` (R6, R135). Time is
given as what has elapsed since the host's action before, so that `NOW` never decreases (R123, R135). -/
inductive HostInput where
  /-- One `ITER` strobe: `NOW` is elapsed later than at the last action, `EVENTS` is events (R123). -/
  | iterate (elapsed : Nat) (events : List Event)
  /-- `RESET` with the image `IMG` (R140, R142). -/
  | reset (elapsed : Nat) (image : List Byte)
deriving DecidableEq, Repr

/-- The reasons for which a step could stop with a fault. There are none. Every fatal condition of the spec is an
entry the spec describes (R118: the fault registers are written and the machine goes dead), so it is a NEXT state, and
a dead machine's iteration does nothing (R110, R123), which is a NEXT state too. -/
inductive Fault where
deriving DecidableEq, Repr

/-- The reasons for which a step has no meaning. -/
inductive Refusal where
  /-- Raised by `exec` alone, for an instruction that has no meaning yet; safe. No arm of `exec` raises it now. -/
  | notModelled (mnemonic : String)
  /-- Raised by a `RESET` whose image is longer than 3584 bytes: "an image longer than that is refused, that is, no
  machine is constructed" (R143; decision D23). Safe: no instruction raises it. -/
  | imageTooLong
deriving DecidableEq, Repr

/-- The state of the machine. -/
structure State where
  /-- V0 to VF (R10, R11). -/
  v : Vector Byte 16
  /-- I, the address register (R12). -/
  i : Word
  /-- PC (R13). -/
  pc : Word
  /-- STACK (R14). -/
  stack : Vector Word 16
  /-- SP, the number of entries in use, 0 to 16 (R15). -/
  sp : Fin 17
  /-- DT, the delay timer (R16). -/
  dt : Byte
  /-- ST, the sound timer (R17). -/
  st : Byte
  /-- MEM (R18). -/
  mem : Memory
  /-- DISP (R19). -/
  disp : Display
  /-- KEY (R20). -/
  key : Vector Bool 16
  /-- WAITING (R21). -/
  waiting : Bool
  /-- WAIT_REG (R21). -/
  waitReg : Reg
  /-- I_DEADLINE (R22). -/
  iDeadline : Nat
  /-- T_DEADLINE (R22). -/
  tDeadline : Nat
  /-- PAUSED (R23). -/
  paused : Bool
  /-- HALT (R24). -/
  halt : Bool
  /-- FAULT_CAUSE (R25). -/
  faultCause : FaultCause
  /-- FAULT_PC (R25). -/
  faultPc : Word
  /-- FAULT_INFO (R25). -/
  faultInfo : Word
  /-- The model's own: the parameters of R5, fixed while the machine lives. -/
  params : Config.Params
  /-- The model's own: `NOW` as last sampled (R6, R26(b)). -/
  now : Nat
  /-- The model's own: what the host will do, the next action first (R6, R26(f), R135). -/
  host : List HostInput
  /-- The model's own: the bytes the host has listed for the `RND` port, the next one first (R26(a), R134). -/
  rnd : List Byte
  /-- The model's own: how many draws the free value `Config.rndByte` has answered. -/
  draws : Nat
deriving DecidableEq, Repr

/-- The machine right after reset (R141) with the empty image, `NOW` = 0 and the parameters of `Params.default`;
nothing is listed for the host. A reset with an image is the host's action (Machine/Reset.lean). -/
def State.reset : State :=
  { v := Vector.replicate 16 0#8
    i := 0x0000#16
    pc := 0x0200#16
    stack := Vector.replicate 16 0x0000#16
    sp := 0
    dt := 0#8
    st := 0#8
    mem := []
    disp := Vector.replicate 32 0#64
    key := Vector.replicate 16 false
    waiting := false
    waitReg := 0
    iDeadline := 0
    tDeadline := 0
    paused := false
    halt := false
    faultCause := .noFault
    faultPc := 0x0000#16
    faultInfo := 0x0000#16
    params := Config.Params.default
    now := 0
    host := []
    rnd := []
    draws := 0 }

/-- The outcome of a meaning or of a step. -/
abbrev Result := Host.Outcome State Fault Refusal

end Sys2Proof.Machine
end

