-- ==== Sys2Proof/Machine/Ops.lean ====
section
/-! DEFINITION. The named operations of the machine: one update per piece of state, the registers, the memory with its
bounds check and fetch, the call stack, the display's plot, the random port, and taking a fatal fault. -/

namespace Sys2Proof.Machine

/-! ## Updates, one per piece of state (their lemmas stand in Laws/State.lean) -/

/-- `V[x] <- b` (R10). No register is hardwired. -/
def State.setReg (s : State) (x : Reg) (b : Byte) : State := { s with v := s.v.set x.val b }

/-- `I <- w` (R12). -/
def State.setI (s : State) (w : Word) : State := { s with i := w }

/-- `pc <- w` (R13). -/
def State.setPc (s : State) (w : Word) : State := { s with pc := w }

/-- `STACK[j] <- w` (R14). -/
def State.setStack (s : State) (j : Fin 16) (w : Word) : State := { s with stack := s.stack.set j.val w }

/-- `SP <- d` (R15). -/
def State.setSp (s : State) (d : Fin 17) : State := { s with sp := d }

/-- `DT <- b` (R16). -/
def State.setDt (s : State) (b : Byte) : State := { s with dt := b }

/-- `ST <- b` (R17). -/
def State.setSt (s : State) (b : Byte) : State := { s with st := b }

/-- The whole memory replaced (R18); used by the byte store and by the loading of an image. -/
def State.setMem (s : State) (m : Memory) : State := { s with mem := m }

/-- The whole display replaced (R19); used by CLS and DRW alone. -/
def State.setDisp (s : State) (d : Display) : State := { s with disp := d }

/-- `KEY[k] <- b` (R20). -/
def State.setKey (s : State) (k : Key) (b : Bool) : State := { s with key := s.key.set k.val b }

/-- `WAITING <- b` (R21). -/
def State.setWaiting (s : State) (b : Bool) : State := { s with waiting := b }

/-- `WAIT_REG <- x` (R21). -/
def State.setWaitReg (s : State) (x : Reg) : State := { s with waitReg := x }

/-- `I_DEADLINE <- t` (R22). -/
def State.setIDeadline (s : State) (t : Nat) : State := { s with iDeadline := t }

/-- `T_DEADLINE <- t` (R22). -/
def State.setTDeadline (s : State) (t : Nat) : State := { s with tDeadline := t }

/-- `PAUSED <- b` (R23). -/
def State.setPaused (s : State) (b : Bool) : State := { s with paused := b }

/-- `HALT <- b` (R24). -/
def State.setHalt (s : State) (b : Bool) : State := { s with halt := b }

/-- The three fault registers written together (R25). -/
def State.setFault (s : State) (c : FaultCause) (at_ info : Word) : State :=
  { s with faultCause := c, faultPc := at_, faultInfo := info }

/-- The model's own: `NOW` as sampled. -/
def State.setNow (s : State) (t : Nat) : State := { s with now := t }

/-- The model's own: what is left of the host's list. -/
def State.setHost (s : State) (h : List HostInput) : State := { s with host := h }

/-- The model's own: what is left of the listed random bytes, and the number of free draws. -/
def State.setRnd (s : State) (bytes : List Byte) (draws : Nat) : State := { s with rnd := bytes, draws := draws }

/-! ## Registers -/

/-- Read of `V[x]` (R10). -/
def State.reg (s : State) (x : Reg) : Byte := s.v[x.val]

/-- All register indices in ascending order. -/
def allRegs : List Reg := [0, 1, 2, 3, 4, 5, 6, 7, 8, 9, 10, 11, 12, 13, 14, 15]

/-- V0 to Vx inclusive, in ascending order: the registers of a block transfer (R91, R92). -/
def regsUpTo (x : Reg) : List Reg := allRegs.take (x.val + 1)

/-! ## The program counter (R70): written modulo 2^16 (R33) -/

/-- `pc <- PC + 2`: the sequential successor (R70). -/
def State.advance (s : State) : State := s.setPc (s.pc + 2#16)

/-- `pc <- PC + 4`: a skip that is taken; the skipped word is not looked at (R70). -/
def State.skipNext (s : State) : State := s.setPc (s.pc + 4#16)

/-- A skip instruction: `if c: pc <- PC + 4 else: pc <- PC + 2` (R65 to R68, R97, R98). -/
def State.skipIf (s : State) (c : Bool) : State := if c then s.skipNext else s.advance

/-! ## Taking a fatal fault (R118) -/

/-- `raise F(info)`: the fault registers are written, `FAULT_PC` with the PC of the instruction, and every other piece
of state keeps the value it had before the instruction started (R118). There is no return from a fault (R119): only a
reset clears it. -/
def State.raise (s : State) (c : FaultCause) (info : Word) : State := s.setFault c s.pc info

/-- `FAULT_CAUSE != 0` (R110). -/
def State.faulted (s : State) : Bool := s.faultCause != .noFault

/-- `FAULT_CAUSE != 0 or HALT = 1`: no iteration does anything (R110, R122, R123). -/
def State.stopped (s : State) : Bool := s.faulted || s.halt

/-! ## Memory -/

/-- The 80 font bytes of R37, one glyph a row: glyph d stands at 5 * d. -/
def fontBytes : List Byte :=
  [0xF0#8, 0x90#8, 0x90#8, 0x90#8, 0xF0#8] ++ -- 0
  [0x20#8, 0x60#8, 0x20#8, 0x20#8, 0x70#8] ++ -- 1
  [0xF0#8, 0x10#8, 0xF0#8, 0x80#8, 0xF0#8] ++ -- 2
  [0xF0#8, 0x10#8, 0xF0#8, 0x10#8, 0xF0#8] ++ -- 3
  [0x90#8, 0x90#8, 0xF0#8, 0x10#8, 0x10#8] ++ -- 4
  [0xF0#8, 0x80#8, 0xF0#8, 0x10#8, 0xF0#8] ++ -- 5
  [0xF0#8, 0x80#8, 0xF0#8, 0x90#8, 0xF0#8] ++ -- 6
  [0xF0#8, 0x10#8, 0x20#8, 0x40#8, 0x40#8] ++ -- 7
  [0xF0#8, 0x90#8, 0xF0#8, 0x90#8, 0xF0#8] ++ -- 8
  [0xF0#8, 0x90#8, 0xF0#8, 0x10#8, 0xF0#8] ++ -- 9
  [0xF0#8, 0x90#8, 0xF0#8, 0x90#8, 0x90#8] ++ -- A
  [0xE0#8, 0x90#8, 0xE0#8, 0x90#8, 0xE0#8] ++ -- B
  [0xF0#8, 0x80#8, 0x80#8, 0x80#8, 0xF0#8] ++ -- C
  [0xE0#8, 0x90#8, 0x90#8, 0x90#8, 0xE0#8] ++ -- D
  [0xF0#8, 0x80#8, 0xF0#8, 0x80#8, 0xF0#8] ++ -- E
  [0xF0#8, 0x80#8, 0xF0#8, 0x80#8, 0x80#8]    -- F

/-- What an address that memory does not list reads as: the content after a reset with the empty image, the font from
0x000 to 0x04F and zeros above (R18, R36, R37, R141). -/
def memDefault (a : Nat) : Byte := fontBytes.getD a 0#8

/-- The byte at address a (R39: the latest write, or the content after reset). -/
def memRead : Memory → Nat → Byte
  | [], a => memDefault a
  | (b, w) :: m, a => if a = b then w else memRead m a

/-- Enter the cell (a, w), keeping the addresses strictly rising. -/
def memPut (a : Nat) (w : Byte) : Memory → Memory
  | [] => [(a, w)]
  | (b, u) :: m => if a < b then (a, w) :: (b, u) :: m else if a = b then (a, w) :: m else (b, u) :: memPut a w m

/-- Take the cell at a out. -/
def memErase (a : Nat) : Memory → Memory
  | [] => []
  | (b, u) :: m => if a = b then m else (b, u) :: memErase a m

/-- `MEM[a] <- w`, in canonical form: writing what an unlisted address reads as takes the cell out. -/
def memWrite (m : Memory) (a : Nat) (w : Byte) : Memory :=
  if w = memDefault a then memErase a m else memPut a w m

/-- Every cell lies from lo up to the end of memory, the addresses rise strictly, and no cell says what an unlisted
address reads as. -/
def memWfFrom (lo : Nat) : Memory → Bool
  | [] => true
  | (b, u) :: m => decide (lo ≤ b) && decide (b < Config.memSize) && (u != memDefault b) && memWfFrom (b + 1) m

/-- The canonical form of memory. -/
def Memory.wf (m : Memory) : Bool := memWfFrom 0 m

/-- The index into MEM of a byte address that has passed the bounds check. Under `ADDR_POLICY = fault` such an address
is below 4096 and is its own index (R43); under `wrap4096` it is reduced (R32, decision D11). -/
def memIndex (a : Nat) : Nat := a % Config.memSize

/-- The bounds check of an access to the n bytes at base, base + 1, ...: the lowest byte address touched that is 4096
or more, if there is one and `ADDR_POLICY = fault` (R32). Addresses are unreduced sums, so they do not wrap here. -/
def State.outOfRange (s : State) (base n : Nat) : Option Nat :=
  match s.params.addrPolicy with
  | .wrap4096 => none
  | .fault => if n ≠ 0 ∧ Config.memSize < base + n then some (max base Config.memSize) else none

/-- `MemRead(a, 1)` after its check (R32). -/
def State.loadByte (s : State) (a : Nat) : Byte := memRead s.mem (memIndex a)

/-- `MemWrite(a, 1, b)` after its check (R32). -/
def State.storeByte (s : State) (a : Nat) (b : Byte) : State := s.setMem (memWrite s.mem (memIndex a) b)

/-- The bytes bs stored at base, base + 1, ..., in ascending order (R90). -/
def storeBytes (base : Nat) : List Byte → State → State
  | [], s => s
  | b :: bs, s => storeBytes (base + 1) bs (s.storeByte base b)

/-- `for k in ks: MemWrite(base + k, 1, V[k])` (R91). -/
def storeRegs (base : Nat) : List Reg → State → State
  | [], s => s
  | k :: ks, s => storeRegs base ks (s.storeByte (base + k.val) (s.reg k))

/-- `for k in ks: V[k] <- MemRead(base + k, 1)` (R92). -/
def loadRegs (base : Nat) : List Reg → State → State
  | [], s => s
  | k :: ks, s => loadRegs base ks (s.setReg k (s.loadByte (base + k.val)))

/-- An access to the n bytes at base: every byte is checked before anything is committed; if one is out of range
AddressFault is raised with the lowest such address, else the access is done (R32, R115, R118). -/
def State.accessing (s : State) (base n : Nat) (done : State) : State :=
  match s.outOfRange base n with
  | some a => s.raise .addressFault (BitVec.ofNat 16 a)
  | none => done

/-- Fetch: `w <- MemRead(PC, 2)`, big-endian, or the address of the AddressFault (R31, R45). -/
def State.fetch (s : State) : Except Word Word :=
  match s.outOfRange s.pc.toNat 2 with
  | some a => .error (BitVec.ofNat 16 a)
  | none => .ok (composeWord (s.loadByte s.pc.toNat) (s.loadByte (s.pc.toNat + 1)))

/-! ## The call stack (R14, R15) -/

/-- CALL's push: `STACK[SP] <- w; SP <- SP + 1`, or nothing where the stack is full, SP = 16 (R64, R114). -/
def State.push? (s : State) (w : Word) : Option State :=
  if h : s.sp.val < 16 then some ((s.setStack ⟨s.sp.val, h⟩ w).setSp ⟨s.sp.val + 1, by omega⟩) else none

/-- RET's pop: `SP <- SP - 1` and the value `STACK[SP]`, or nothing where the stack is empty, SP = 0 (R62, R113). The
entry is not cleared. -/
def State.pop? (s : State) : Option (Word × State) :=
  if h : s.sp.val ≠ 0 then
    some (s.stack[s.sp.val - 1]'(by have := s.sp.isLt; omega), s.setSp ⟨s.sp.val - 1, by have := s.sp.isLt; omega⟩)
  else none

/-! ## The display (R93, R95) -/

/-- `DISP[r mod 32][c mod 64]` (R19, R95). -/
def pixel (d : Display) (r c : Nat) : Bool := (d[r % 32]'(Nat.mod_lt _ (by decide))).getLsbD (c % 64)

/-- The pixel at row r mod 32 and column c mod 64 toggled (R95). -/
def togglePixel (d : Display) (r c : Nat) : Display :=
  d.set (r % 32) ((d[r % 32]'(Nat.mod_lt _ (by decide))) ^^^ (1#64 <<< (c % 64))) (Nat.mod_lt _ (by decide))

/-- `Plot(r, c)` for each pixel of the list in order, and whether any plot cleared a set pixel (R94, R95). -/
def plotAll : List (Nat × Nat) → Display → Bool → Display × Bool
  | [], d, hit => (d, hit)
  | (r, c) :: ps, d, hit => plotAll ps (togglePixel d r c) (hit || pixel d r c)

/-- The clear display (R93). -/
def clearDisplay : Display := Vector.replicate 32 0#64

/-- The pixels of one sprite row: bit 7 of the byte is column cx, bit 0 column cx + 7; only the set bits count (R94). -/
def spriteRow (b : Byte) (r cx : Nat) : List (Nat × Nat) :=
  ((List.range 8).filter fun col => b.getLsbD (7 - col)).map fun col => (r, cx + col)

/-- The pixels of the n-row sprite at I, its left column cx and its top row cy, in the order of R94's loops. -/
def State.spritePixels (s : State) (cx cy n : Nat) : List (Nat × Nat) :=
  (List.range n).flatMap fun row => spriteRow (s.loadByte (s.i.toNat + row)) (cy + row) cx

/-! ## The keys (R20) -/

/-- `KEY[k]` (R20). -/
def State.keyDown (s : State) (k : Key) : Bool := s.key[k.val]

/-! ## The random port (R134) -/

/-- `Rand8()`: the byte the `RND` port answers: the next byte the host has listed, or, past the list, the free value
(R83, R134). -/
def State.rand8 (s : State) : Byte :=
  match s.rnd with
  | [] => Config.rndByte s.draws
  | b :: _ => b

/-- The port after that draw: the model's record of it moves on, so that the next draw is independent of it. -/
def State.afterDraw (s : State) : State :=
  match s.rnd with
  | [] => s.setRnd [] (s.draws + 1)
  | _ :: bs => s.setRnd bs s.draws

/-! ## Outcomes in sequence -/

/-- Go on with f after a next state; a fault or a refusal ends the step. -/
def Result.andThen (r : Result) (f : State → Result) : Result :=
  match r with
  | .next s => f s
  | .fault e => .fault e
  | .refused e => .refused e

end Sys2Proof.Machine
end

