-- ==== Sys2Proof/Machine/Flags.lean ====
section
/-! DEFINITION. The flag computations (spec/10_state.md R11) and the order of the two writes of a flag-writing
instruction (spec/41_alu.md R84). Results and flags are computed from the latched operands. -/

namespace Sys2Proof.Machine

/-- A flag value: 1 where c holds, else 0. -/
def flagOf (c : Bool) : Byte := if c then 1#8 else 0#8

/-- ADD: 1 if a + b < 256 (no overflow), else 0: the inverted polarity, to be reproduced (R78). -/
def addFlag (a b : Byte) : Byte := flagOf (decide (a.toNat + b.toNat < 256))

/-- a - b: 1 if a >= b (no borrow), else 0 (R79, R81). -/
def subFlag (a b : Byte) : Byte := flagOf (decide (b.toNat ≤ a.toNat))

/-- SHR: bit 0 of a before the shift, 0 or 1 (R80). -/
def shrFlag (a : Byte) : Byte := a &&& 1#8

/-- SHL: a & 0x80 before the shift, 0x00 or 0x80, not normalised (R82). -/
def shlFlag (a : Byte) : Byte := a &&& 0x80#8

/-- DRW: 1 if a set pixel was turned off, else 0 (R94). -/
def hitFlag (hit : Bool) : Byte := flagOf hit

/-- The two writes of 8XY4, 8XY5, 8XY6, 8XY7 and 8XYE in the order `VF_ORDER` gives: by default the result first and
VF last (R84(b)). -/
def State.writeResultAndFlag (s : State) (x : Reg) (result flag : Byte) : State :=
  match s.params.vfOrder with
  | .flagLast => (s.setReg x result).setReg vf flag
  | .flagFirst => (s.setReg vf flag).setReg x result

end Sys2Proof.Machine
end

