-- ==== Sys2Proof/Machine/Operands.lean ====
section
/-! DEFINITION. The operand forms (spec/30_encoding.md R46, R48): no immediate is sign-extended, scaled or shifted, a
register operand is an 8-bit unsigned value, and a memory operand is always at I plus a constant offset. -/

namespace Sys2Proof.Machine

/-- `nnn` as an absolute byte address, zero-extended to 16 bits (R48). -/
def addressOperand (nnn : Addr12) : Word := nnn.zeroExtend 16

/-- A register or immediate byte as an addend of I or of a target, zero-extended to 16 bits (R33, R88). -/
def wordOperand (b : Byte) : Word := b.zeroExtend 16

/-- `n` as a row count, 0 to 15 (R48). -/
def countOperand (n : Nibble) : Nat := n.toNat

/-- V[x] as a key index: none where it is 16 or more; it is not masked (R97, R116; decision D14). -/
def keyOperand (b : Byte) : Option Key := if h : b.toNat < 16 then some ⟨b.toNat, h⟩ else none

/-- The decimal digits of V[x], hundreds first, each as a binary byte (R90). -/
def bcdDigits (a : Byte) : List Byte :=
  [BitVec.ofNat 8 (a.toNat / 100), BitVec.ofNat 8 (a.toNat / 10 % 10), BitVec.ofNat 8 (a.toNat % 10)]

end Sys2Proof.Machine
end

