-- ==== Sys2Proof/Machine/Alu.lean ====
section
/-! DEFINITION. Register and ALU instructions (spec/41_alu.md): loads, add immediate, family 8 and random. All go on at
PC + 2 and none can fault (R70, R85). Source registers are read before anything is written (R84(a)). -/

namespace Sys2Proof.Machine

/-- LD Vx, nn (R72). -/
def execLdImm (x : Reg) (nn : Byte) (s : State) : Result := .next (s.setReg x nn).advance

/-- ADD Vx, nn: no flag is written (R73). -/
def execAddImm (x : Reg) (nn : Byte) (s : State) : Result := .next (s.setReg x (s.reg x + nn)).advance

/-- LD Vx, Vy (R74). -/
def execLdReg (x y : Reg) (s : State) : Result := .next (s.setReg x (s.reg y)).advance

/-- OR Vx, Vy: VF is not written as a flag (R75). -/
def execOrReg (x y : Reg) (s : State) : Result := .next (s.setReg x (s.reg x ||| s.reg y)).advance

/-- AND Vx, Vy: VF is not written as a flag (R76). -/
def execAndReg (x y : Reg) (s : State) : Result := .next (s.setReg x (s.reg x &&& s.reg y)).advance

/-- XOR Vx, Vy: VF is not written as a flag (R77). -/
def execXorReg (x y : Reg) (s : State) : Result := .next (s.setReg x (s.reg x ^^^ s.reg y)).advance

/-- ADD Vx, Vy with the inverted overflow flag (R78). -/
def execAddReg (x y : Reg) (s : State) : Result :=
  .next (s.writeResultAndFlag x (s.reg x + s.reg y) (addFlag (s.reg x) (s.reg y))).advance

/-- SUB Vx, Vy (R79). -/
def execSubReg (x y : Reg) (s : State) : Result :=
  .next (s.writeResultAndFlag x (s.reg x - s.reg y) (subFlag (s.reg x) (s.reg y))).advance

/-- SHR Vx {, Vy}: V[x] shifted right by one; V[y] is not read (R80). -/
def execShrReg (x _y : Reg) (s : State) : Result :=
  .next (s.writeResultAndFlag x (s.reg x >>> 1) (shrFlag (s.reg x))).advance

/-- SUBN Vx, Vy: `V[x] <- V[y] - V[x]` (R81). -/
def execSubnReg (x y : Reg) (s : State) : Result :=
  .next (s.writeResultAndFlag x (s.reg y - s.reg x) (subFlag (s.reg y) (s.reg x))).advance

/-- SHL Vx {, Vy}: V[x] shifted left by one; V[y] is not read (R82). -/
def execShlReg (x _y : Reg) (s : State) : Result :=
  .next (s.writeResultAndFlag x (s.reg x <<< 1) (shlFlag (s.reg x))).advance

/-- RND Vx, nn: the byte of the `RND` port ANDed with nn (R83). -/
def execRnd (x : Reg) (nn : Byte) (s : State) : Result :=
  .next (s.afterDraw.setReg x (s.rand8 &&& nn)).advance

end Sys2Proof.Machine
end

