-- ==== Sys2Proof/Machine/Control.lean ====
section
/-! DEFINITION. Control transfer (spec/40_control_flow.md): HALT, SYS, RET, JP, CALL, the four comparison skips and
JP V0. `s.pc` is the address of the instruction being executed (R13). -/

namespace Sys2Proof.Machine

/-- HALT, the zero word: `HALT <- 1`; PC is unchanged (R60). -/
def execHalt (s : State) : Result := .next (s.setHalt true)

/-- SYS nnn: DecodeFault with the instruction word, 0NNN, by default; a no-operation under `SYS_POLICY = nop`
(R54, R61). -/
def execSys (nnn : Addr12) (s : State) : Result :=
  match s.params.sysPolicy with
  | .fault => .next (s.raise .decodeFault (addressOperand nnn))
  | .nop => .next s.advance

/-- RET: pops the address of the CALL and goes 2 past it; StackUnderflow at SP = 0 (R62, R113). -/
def execRet (s : State) : Result :=
  match s.pop? with
  | none => .next (s.raise .stackUnderflow 0#16)
  | some (a, t) => .next (t.setPc (a + 2#16))

/-- JP nnn (R63). -/
def execJp (nnn : Addr12) (s : State) : Result := .next (s.setPc (addressOperand nnn))

/-- CALL nnn: pushes the address of this CALL; StackOverflow at SP = 16 (R64, R114). -/
def execCall (nnn : Addr12) (s : State) : Result :=
  match s.push? s.pc with
  | none => .next (s.raise .stackOverflow 0#16)
  | some t => .next (t.setPc (addressOperand nnn))

/-- SE Vx, nn (R65). -/
def execSeImm (x : Reg) (nn : Byte) (s : State) : Result := .next (s.skipIf (s.reg x == nn))

/-- SNE Vx, nn (R66). -/
def execSneImm (x : Reg) (nn : Byte) (s : State) : Result := .next (s.skipIf (s.reg x != nn))

/-- SE Vx, Vy; the low nibble is not examined (R53, R67). -/
def execSeReg (x y : Reg) (_low : Nibble) (s : State) : Result := .next (s.skipIf (s.reg x == s.reg y))

/-- SNE Vx, Vy; the low nibble is not examined (R53, R68). -/
def execSneReg (x y : Reg) (_low : Nibble) (s : State) : Result := .next (s.skipIf (s.reg x != s.reg y))

/-- JP V0, nnn: always V0, never V[x] (R69). -/
def execJpV0 (nnn : Addr12) (s : State) : Result :=
  .next (s.setPc (addressOperand nnn + wordOperand (s.reg v0)))

end Sys2Proof.Machine
end

