-- ==== Sys2Proof/Machine/Graphics.lean ====
section
/-! DEFINITION. Display instructions (spec/43_display.md): CLS and DRW. -/

namespace Sys2Proof.Machine

/-- CLS (R93). -/
def execCls (s : State) : Result := .next (s.setDisp clearDisplay).advance

/-- DRW's effect once every sprite byte is in range: the sprite's set bits plotted, VF the collision flag (R94). -/
def State.drawn (s : State) (cx cy n : Nat) : State :=
  (s.setDisp (plotAll (s.spritePixels cx cy n) s.disp false).1).setReg vf
    (hitFlag (plotAll (s.spritePixels cx cy n) s.disp false).2)

/-- DRW Vx, Vy, n: the coordinates are latched before VF is written; the n sprite bytes at I are checked before
anything is drawn; n = 0 reads nothing and cannot fault (R94). -/
def execDrw (x y : Reg) (n : Nibble) (s : State) : Result :=
  .next (s.accessing s.i.toNat (countOperand n)
    (s.drawn (s.reg x).toNat (s.reg y).toNat (countOperand n)).advance)

end Sys2Proof.Machine
end

