-- ==== Sys2Proof/Machine/KeysTimers.lean ====
section
/-! DEFINITION. Key and timer instructions (spec/44_timers_keys.md). -/

namespace Sys2Proof.Machine

/-- A key skip on V[x] = b: KeyIndexFault where b is 16 or more, else a skip where KEY[b] is the wanted level
(R97, R98, R116). -/
def State.skipOnKey (s : State) (b : Byte) (down : Bool) : State :=
  match keyOperand b with
  | none => s.raise .keyIndexFault (wordOperand b)
  | some k => s.skipIf (s.keyDown k == down)

/-- SKP Vx: skip if the key is down (R97). -/
def execSkp (x : Reg) (s : State) : Result := .next (s.skipOnKey (s.reg x) true)

/-- SKNP Vx: skip if the key is up (R98). -/
def execSknp (x : Reg) (s : State) : Result := .next (s.skipOnKey (s.reg x) false)

/-- LD Vx, DT (R99). -/
def execLdVxDt (x : Reg) (s : State) : Result := .next (s.setReg x s.dt).advance

/-- LD Vx, K: enters the wait at once and goes on to PC + 2; V[x] is written later, by a key press (R100). -/
def execLdVxK (x : Reg) (s : State) : Result := .next ((s.setWaiting true).setWaitReg x).advance

/-- LD DT, Vx (R101). -/
def execLdDtVx (x : Reg) (s : State) : Result := .next (s.setDt (s.reg x)).advance

/-- LD ST, Vx (R102). -/
def execLdStVx (x : Reg) (s : State) : Result := .next (s.setSt (s.reg x)).advance

end Sys2Proof.Machine
end

