-- ==== Sys2Proof/Machine/MemoryIndex.lean ====
section
/-! DEFINITION. Address-register and memory instructions (spec/42_memory_index.md). The k-th byte of an access is at
the natural number I + k (R32). No access changes I. -/

namespace Sys2Proof.Machine

/-- LD I, nnn (R87). -/
def execLdI (nnn : Addr12) (s : State) : Result := .next (s.setI (addressOperand nnn)).advance

/-- ADD I, Vx: modulo 2^16, no flag and no fault (R33, R88). -/
def execAddI (x : Reg) (s : State) : Result := .next (s.setI (s.i + wordOperand (s.reg x))).advance

/-- LD F, Vx: `I <- 5 * V[x]`, for every V[x] (R89; decision D15). -/
def execLdF (x : Reg) (s : State) : Result := .next (s.setI (5#16 * wordOperand (s.reg x))).advance

/-- LD B, Vx: the three decimal digits at I, I + 1, I + 2 (R90). -/
def execLdB (x : Reg) (s : State) : Result :=
  .next (s.accessing s.i.toNat 3 (storeBytes s.i.toNat (bcdDigits (s.reg x)) s).advance)

/-- LD [I], Vx: V0 to Vx stored at I, I + 1, ... (R91). -/
def execLdStore (x : Reg) (s : State) : Result :=
  .next (s.accessing s.i.toNat (x.val + 1) (storeRegs s.i.toNat (regsUpTo x) s).advance)

/-- LD Vx, [I]: V0 to Vx loaded from I, I + 1, ... (R92). -/
def execLdLoad (x : Reg) (s : State) : Result :=
  .next (s.accessing s.i.toNat (x.val + 1) (loadRegs s.i.toNat (regsUpTo x) s).advance)

end Sys2Proof.Machine
end

