-- ==== Sys2Proof/Machine/Dispatch.lean ====
section
/-! DEFINITION. The dispatcher: one arm per constructor of Instr, in the order of the opcode map (spec/30_encoding.md
R50), each one direct call of the instruction's meaning. -/

namespace Sys2Proof.Machine

/-- The handler of a decoded instruction (R45), at the PC of that instruction (R13). -/
def exec (i : Instr) (s : State) : Host.Outcome State Fault Refusal :=
  match i with
  -- 0000 HALT (R60)
  | .halt => Sys2Proof.Machine.execHalt s
  -- 00E0 CLS (R93)
  | .cls => Sys2Proof.Machine.execCls s
  -- 00EE RET (R62)
  | .ret => Sys2Proof.Machine.execRet s
  -- 0NNN SYS nnn (R61)
  | .sys nnn => Sys2Proof.Machine.execSys nnn s
  -- 1NNN JP nnn (R63)
  | .jp nnn => Sys2Proof.Machine.execJp nnn s
  -- 2NNN CALL nnn (R64)
  | .call nnn => Sys2Proof.Machine.execCall nnn s
  -- 3XNN SE Vx, nn (R65)
  | .seImm x nn => Sys2Proof.Machine.execSeImm x nn s
  -- 4XNN SNE Vx, nn (R66)
  | .sneImm x nn => Sys2Proof.Machine.execSneImm x nn s
  -- 5XY0 SE Vx, Vy (R67)
  | .seReg x y low => Sys2Proof.Machine.execSeReg x y low s
  -- 6XNN LD Vx, nn (R72)
  | .ldImm x nn => Sys2Proof.Machine.execLdImm x nn s
  -- 7XNN ADD Vx, nn (R73)
  | .addImm x nn => Sys2Proof.Machine.execAddImm x nn s
  -- 8XY0 LD Vx, Vy (R74)
  | .ldReg x y => Sys2Proof.Machine.execLdReg x y s
  -- 8XY1 OR Vx, Vy (R75)
  | .orReg x y => Sys2Proof.Machine.execOrReg x y s
  -- 8XY2 AND Vx, Vy (R76)
  | .andReg x y => Sys2Proof.Machine.execAndReg x y s
  -- 8XY3 XOR Vx, Vy (R77)
  | .xorReg x y => Sys2Proof.Machine.execXorReg x y s
  -- 8XY4 ADD Vx, Vy (R78)
  | .addReg x y => Sys2Proof.Machine.execAddReg x y s
  -- 8XY5 SUB Vx, Vy (R79)
  | .subReg x y => Sys2Proof.Machine.execSubReg x y s
  -- 8XY6 SHR Vx {, Vy} (R80)
  | .shrReg x y => Sys2Proof.Machine.execShrReg x y s
  -- 8XY7 SUBN Vx, Vy (R81)
  | .subnReg x y => Sys2Proof.Machine.execSubnReg x y s
  -- 8XYE SHL Vx {, Vy} (R82)
  | .shlReg x y => Sys2Proof.Machine.execShlReg x y s
  -- 9XY0 SNE Vx, Vy (R68)
  | .sneReg x y low => Sys2Proof.Machine.execSneReg x y low s
  -- ANNN LD I, nnn (R87)
  | .ldI nnn => Sys2Proof.Machine.execLdI nnn s
  -- BNNN JP V0, nnn (R69)
  | .jpV0 nnn => Sys2Proof.Machine.execJpV0 nnn s
  -- CXNN RND Vx, nn (R83)
  | .rnd x nn => Sys2Proof.Machine.execRnd x nn s
  -- DXYN DRW Vx, Vy, n (R94)
  | .drw x y n => Sys2Proof.Machine.execDrw x y n s
  -- EX9E SKP Vx (R97)
  | .skp x => Sys2Proof.Machine.execSkp x s
  -- EXA1 SKNP Vx (R98)
  | .sknp x => Sys2Proof.Machine.execSknp x s
  -- FX07 LD Vx, DT (R99)
  | .ldVxDt x => Sys2Proof.Machine.execLdVxDt x s
  -- FX0A LD Vx, K (R100)
  | .ldVxK x => Sys2Proof.Machine.execLdVxK x s
  -- FX15 LD DT, Vx (R101)
  | .ldDtVx x => Sys2Proof.Machine.execLdDtVx x s
  -- FX18 LD ST, Vx (R102)
  | .ldStVx x => Sys2Proof.Machine.execLdStVx x s
  -- FX1E ADD I, Vx (R88)
  | .addI x => Sys2Proof.Machine.execAddI x s
  -- FX29 LD F, Vx (R89)
  | .ldF x => Sys2Proof.Machine.execLdF x s
  -- FX33 LD B, Vx (R90)
  | .ldB x => Sys2Proof.Machine.execLdB x s
  -- FX55 LD [I], Vx (R91)
  | .ldStore x => Sys2Proof.Machine.execLdStore x s
  -- FX65 LD Vx, [I] (R92)
  | .ldLoad x => Sys2Proof.Machine.execLdLoad x s

end Sys2Proof.Machine
end

