-- ==== Sys2Proof/Machine/Reset.lean ====
section
/-! DEFINITION. Reset as the host presents it (spec/70_reset_and_hazards.md R140 to R144): a machine built afresh from
an image and a time. -/

namespace Sys2Proof.Machine

/-- The image bytes copied to base, base + 1, ..., verbatim (R142). -/
def loadImage (base : Nat) : List Byte → Memory → Memory
  | [], m => m
  | b :: bs, m => loadImage (base + 1) bs (memWrite m base b)

/-- The machine a reset builds from the image (R140, R141): every piece of state at its reset value, whatever it held
before; both deadlines at `NOW` (R22). What stands outside the block goes on as it was: the parameters, the time, what
the host will do and the random port. -/
def State.construct (s : State) (image : List Byte) : State :=
  { State.reset with
    mem := loadImage Config.progBase image []
    iDeadline := s.now
    tDeadline := s.now
    params := s.params
    now := s.now
    host := s.host
    rnd := s.rnd
    draws := s.draws }

/-- Reset with an image: an image longer than 3584 bytes is refused, not truncated (R143; decision D23). -/
def resetWith (image : List Byte) (s : State) : Result :=
  if image.length ≤ Config.imgMax then .next (s.construct image) else .refused .imageTooLong

end Sys2Proof.Machine
end

