-- ==== Sys2Proof/Machine/Schedule.lean ====
section
/-! DEFINITION. The scheduler (spec/60_exceptions.md R123 to R130): one execution of the instruction engine, the input
events, the two clocks, and one iteration. -/

namespace Sys2Proof.Machine

/-- `execute_one()` (R45): fetch, decode, and the handler. The first fault in the order fetch, decode, handler is the
one that is raised (R112, R115, R117). -/
def executeOne (s : State) : Result :=
  match s.fetch with
  | .error a => .next (s.raise .addressFault a)
  | .ok w =>
    match decodeWord w with
    | .error _ => .next (s.raise .decodeFault w)
    | .ok i => exec i s

/-- Go on with f unless a fault is recorded: a fault ends the iteration (R123). -/
def Result.unlessFaulted (r : Result) (f : State → Result) : Result :=
  Result.andThen r fun s => if s.faulted then .next s else f s

/-! ## Input events (R124) -/

/-- A key press: the key is down, and a wait is released: `V[WAIT_REG] <- k; WAITING <- 0` (R124). -/
def State.keyPress (s : State) (k : Key) : State :=
  if s.waiting then ((s.setKey k true).setReg s.waitReg (BitVec.ofNat 8 k.val)).setWaiting false
  else s.setKey k true

/-- A key release; it never releases a wait (R124). -/
def State.keyRelease (s : State) (k : Key) : State := s.setKey k false

/-- The pause toggle; leaving the pause sets both deadlines to the `NOW` of this iteration (R127). -/
def State.pauseToggle (s : State) : State :=
  if s.paused then ((s.setPaused false).setIDeadline s.now).setTDeadline s.now else s.setPaused true

/-- A single-step request: one instruction while paused, not waiting and not halted; otherwise no effect (R128). -/
def singleStep (s : State) : Result :=
  if s.paused && !s.waiting && !s.halt then executeOne s else .next s

/-- `ApplyEvent(e, now)` (R124); `s.now` is the time sampled for the iteration. -/
def applyEvent (e : Event) (s : State) : Result :=
  match e with
  | .keyPress k => .next (s.keyPress k)
  | .keyRelease k => .next (s.keyRelease k)
  | .pauseToggle => .next s.pauseToggle
  | .singleStep => singleStep s
  | .exitRequest => .next (s.setHalt true)

/-- Phase 1: the events in order; a fault ends the iteration (R123). -/
def applyEvents : List Event → State → Result
  | [], s => .next s
  | e :: es, s => Result.unlessFaulted (applyEvent e s) (applyEvents es)

/-! ## The two clocks -/

/-- The instruction clock is due: `PAUSED = 0 and WAITING = 0 and HALT = 0 and now >= I_DEADLINE` (R123, R125). -/
def State.instructionDue (s : State) : Bool :=
  !s.paused && !s.waiting && !s.halt && decide (s.iDeadline ≤ s.now)

/-- Phase 2: at most one instruction, and the deadline one period on; no catch-up (R123, R125). -/
def instructionPhase (s : State) : Result :=
  if s.instructionDue then executeOne (s.setIDeadline (s.iDeadline + s.params.tInstr)) else .next s

/-- A timer counts down by 1 with a floor of 0 (R126). -/
def countDown (b : Byte) : Byte := if b = 0#8 then 0#8 else b - 1#8

/-- The timers' countdown: DT and ST each by 1 where not 0 (R126). -/
def State.countTimers (s : State) : State := (s.setDt (countDown s.dt)).setSt (countDown s.st)

/-- The timer clock is due: `PAUSED = 0 and now >= T_DEADLINE` (R123, R126). -/
def State.timerDue (s : State) : Bool := !s.paused && decide (s.tDeadline ≤ s.now)

/-- Phase 3: at most one countdown, and the deadline one period on (R123, R126). It runs in the iteration that set
HALT, too (R122). -/
def State.timerPhase (s : State) : State :=
  if s.timerDue then (s.setTDeadline (s.tDeadline + s.params.tTimer)).countTimers else s

/-! ## One iteration -/

/-- `Iterate(now, events)` on a state whose `now` has been sampled (R123): nothing where a fault is recorded or HALT
is set, else the three phases one after the other. -/
def iterateNow (events : List Event) (s : State) : Result :=
  if s.stopped then .next s
  else
    Result.unlessFaulted (applyEvents events s) fun t =>
      Result.unlessFaulted (instructionPhase t) fun u => .next u.timerPhase

/-- One `ITER` strobe, elapsed after the host's last action (R123, R135). -/
def iterate (elapsed : Nat) (events : List Event) (s : State) : Result :=
  iterateNow events (s.setNow (s.now + elapsed))

/-- What the host does at this step and what is left of its list. Past the end of the list the host strobes `ITER`
once every `T_INSTR` with no events: DESIGN CHOICE, unsafe (notes/assumptions/4.md). -/
def State.nextInput (s : State) : HostInput × List HostInput :=
  match s.host with
  | [] => (.iterate s.params.tInstr [], [])
  | h :: hs => (h, hs)

/-- The host's action performed: an iteration, or a reset (R123, R140). -/
def runInput (h : HostInput) (s : State) : Result :=
  match h with
  | .iterate elapsed events => iterate elapsed events s
  | .reset elapsed image => resetWith image (s.setNow (s.now + elapsed))

/-! ## Placing an instruction for the next step -/

/-- The pc to fetch from: the machine's own where both bytes can be fetched, else the program base. -/
def State.placeablePc (s : State) : Word :=
  match s.outOfRange s.pc.toNat 2 with
  | none => s.pc
  | some _ => BitVec.ofNat 16 Config.progBase

/-- s with the instruction word w at the pc, and made ready so that the very next step fetches and runs it: no fault
recorded, not halted, not paused, not waiting, and the host's next action an iteration at which the instruction clock
is due (notes/assumptions/3.md). -/
def State.placeWord (s : State) (w : Word) : State :=
  let t := s.setPc s.placeablePc
  let t := (t.storeByte t.pc.toNat (highByte w)).storeByte (t.pc.toNat + 1) (lowByte w)
  let t := (((t.setFault .noFault 0#16 0#16).setHalt false).setPaused false).setWaiting false
  t.setHost (.iterate (s.iDeadline - s.now) [] :: s.host)

end Sys2Proof.Machine
end

