-- ==== Sys2Proof/Machine/Step.lean ====
section
/-! DEFINITION. One step of the machine: one action of the host, which is one scheduler iteration (spec/00_scope.md
R7, spec/60_exceptions.md R123) or a reset (spec/70_reset_and_hazards.md R140). -/

namespace Sys2Proof.Machine

/-- One step: the host's next action, taken off its list, is performed. -/
def step : State → Host.Outcome State Fault Refusal :=
  fun s => runInput s.nextInput.1 (s.setHost s.nextInput.2)

/-- s with the instruction whose bits are w stored where step fetches its next instruction, and all else that the
fetch needs (notes/assumptions/3.md). -/
def State.withFetchWord (s : State) (nbits w : Nat) : State := s.placeWord (tableWord nbits w)

end Sys2Proof.Machine
end

