-- ==== Sys2Proof/Machine/Ports.lean ====
section
/-! DEFINITION. The output ports to the collaborators (spec/00_scope.md R6; spec/60_exceptions.md R118, R122, R132,
R133). Reading one has no side effect. -/

namespace Sys2Proof.Machine

/-- The code of a cause, as the 3-bit register `FAULT_CAUSE` holds it (R111). -/
def faultCode : FaultCause → BitVec 3
  | .noFault => 0#3
  | .decodeFault => 1#3
  | .stackUnderflow => 2#3
  | .stackOverflow => 3#3
  | .addressFault => 4#3
  | .keyIndexFault => 5#3

/-- `SOUND`: 1 exactly while ST is not 0 (R132). -/
def State.soundPort (s : State) : Bool := s.st != 0#8

/-- `HALTED`: the HALT flag (R122). -/
def State.haltedPort (s : State) : Bool := s.halt

/-- `DISP_OUT[r][c]` = `DISP[r][c]` (R133). -/
def State.displayPort (s : State) (r : Fin 32) (c : Fin 64) : Bool := pixel s.disp r.val c.val

/-- `FAULT_OUT`: the three fault registers (R118). -/
def State.faultPort (s : State) : BitVec 3 × Word × Word := (faultCode s.faultCause, s.faultPc, s.faultInfo)

end Sys2Proof.Machine
end

