-- ==== Sys2Proof/Machine/Untimed.lean ====
section
/-! DEFINITION. The untimed abstraction (spec/60_exceptions.md R131): the machine without `NOW`, deadlines and periods,
whose steps are free events. The machine's own step is the timed one (Machine/Step.lean); this is the spec's second
description of it, and Obligations.TimedRunsAreUntimedRuns relates the two. -/

namespace Sys2Proof.Machine

/-- The steps of R131. -/
inductive UntimedEvent where
  /-- One instruction. -/
  | iTick
  /-- One countdown of the timers. -/
  | tTick
  /-- As R124. -/
  | keyPress (k : Key)
  /-- As R124. -/
  | keyRelease (k : Key)
  /-- `PAUSED <- not PAUSED`. -/
  | pauseToggle
  /-- As R128. -/
  | singleStep
  /-- `HALT <- 1`. -/
  | exitRequest
deriving DecidableEq, Repr

/-- When a step is enabled: never once a fault is recorded or HALT is set, and as R131's second column says. -/
def untimedEnabled (e : UntimedEvent) (s : State) : Bool :=
  !s.stopped &&
    match e with
    | .iTick => !s.paused && !s.waiting
    | .tTick => !s.paused
    | .keyPress _ => true
    | .keyRelease _ => true
    | .pauseToggle => true
    | .singleStep => true
    | .exitRequest => true

/-- The effect of a step: R131's third column. -/
def untimedEffect (e : UntimedEvent) (s : State) : Result :=
  match e with
  | .iTick => executeOne s
  | .tTick => .next s.countTimers
  | .keyPress k => .next (s.keyPress k)
  | .keyRelease k => .next (s.keyRelease k)
  | .pauseToggle => .next (s.setPaused (!s.paused))
  | .singleStep => singleStep s
  | .exitRequest => .next (s.setHalt true)

/-- A run of the untimed machine: each step enabled where it is taken. -/
def untimedRun : List UntimedEvent → State → Option State
  | [], s => some s
  | e :: es, s =>
    if untimedEnabled e s then
      match untimedEffect e s with
      | .next t => untimedRun es t
      | .fault _ => none
      | .refused _ => none
    else none

/-- The timer check of the halting iteration: after the step that set HALT, at most one further `TTick` (R131). -/
def lastTimerTick (taken : Bool) (s : State) : Option State :=
  if taken then if s.halt && !s.faulted && !s.paused then some s.countTimers else none else some s

/-- The state without what the untimed machine leaves out: the deadlines, and the model's own record of time and of
the host's list. -/
def State.forgetTime (s : State) : State := (((s.setIDeadline 0).setTDeadline 0).setNow 0).setHost []

end Sys2Proof.Machine
end

