-- ==== Sys2Proof/Safety.lean ====
section
/-! DEFINITION. The terms the claims are stated in: the single pieces of state and what leaves them unchanged (frames),
the invariant of the machine, and what counts as a run that has not gone wrong. -/

namespace Sys2Proof.Machine

/-! ## Frames -/

/-- Every single piece of state: each register, each byte of memory, each pixel, each key, each stack entry apart. -/
inductive Piece where
  /-- V[x]. -/
  | reg (x : Reg)
  /-- I. -/
  | addrI
  /-- PC. -/
  | pc
  /-- STACK[j]. -/
  | stackEntry (j : Fin 16)
  /-- SP. -/
  | sp
  /-- DT. -/
  | dt
  /-- ST. -/
  | st
  /-- The byte of MEM at index a. -/
  | byte (a : Nat)
  /-- DISP[r][c]. -/
  | pixel (r : Fin 32) (c : Fin 64)
  /-- KEY[k]. -/
  | key (k : Key)
  /-- WAITING. -/
  | waiting
  /-- WAIT_REG. -/
  | waitReg
  /-- I_DEADLINE. -/
  | iDeadline
  /-- T_DEADLINE. -/
  | tDeadline
  /-- PAUSED. -/
  | paused
  /-- HALT. -/
  | halt
  /-- FAULT_CAUSE. -/
  | faultCause
  /-- FAULT_PC. -/
  | faultPc
  /-- FAULT_INFO. -/
  | faultInfo
  /-- The parameters. -/
  | params
  /-- The time, as the model records it. -/
  | now
  /-- The host's list, as the model records it. -/
  | host
  /-- The random port, as the model records it. -/
  | randomPort
deriving DecidableEq, Repr

/-- The piece has the same value in s and in t. -/
def Piece.same (p : Piece) (s t : State) : Prop :=
  match p with
  | .reg x => t.reg x = s.reg x
  | .addrI => t.i = s.i
  | .pc => t.pc = s.pc
  | .stackEntry j => t.stack[j.val] = s.stack[j.val]
  | .sp => t.sp = s.sp
  | .dt => t.dt = s.dt
  | .st => t.st = s.st
  | .byte a => memRead t.mem a = memRead s.mem a
  | .pixel r c => Machine.pixel t.disp r.val c.val = Machine.pixel s.disp r.val c.val
  | .key k => t.keyDown k = s.keyDown k
  | .waiting => t.waiting = s.waiting
  | .waitReg => t.waitReg = s.waitReg
  | .iDeadline => t.iDeadline = s.iDeadline
  | .tDeadline => t.tDeadline = s.tDeadline
  | .paused => t.paused = s.paused
  | .halt => t.halt = s.halt
  | .faultCause => t.faultCause = s.faultCause
  | .faultPc => t.faultPc = s.faultPc
  | .faultInfo => t.faultInfo = s.faultInfo
  | .params => t.params = s.params
  | .now => t.now = s.now
  | .host => t.host = s.host
  | .randomPort => t.rnd = s.rnd ∧ t.draws = s.draws

/-- Nothing but the pieces that satisfy p differs between s and t. -/
def ChangesOnly (p : Piece → Prop) (s t : State) : Prop := ∀ q : Piece, ¬ p q → q.same s t

/-- The three fault registers. -/
def Piece.isFault : Piece → Prop
  | .faultCause | .faultPc | .faultInfo => True
  | .reg _ | .addrI | .pc | .stackEntry _ | .sp | .dt | .st | .byte _ | .pixel _ _ | .key _ | .waiting | .waitReg
  | .iDeadline | .tDeadline | .paused | .halt | .params | .now | .host | .randomPort => False

/-- s with the fault c of the instruction at its PC recorded, every other piece of state as before (R118). -/
def RaisedFault (c : FaultCause) (info : Word) (s t : State) : Prop :=
  t.faultCause = c ∧ t.faultPc = s.pc ∧ t.faultInfo = info ∧ ChangesOnly Piece.isFault s t

/-! ## Access to memory -/

/-- An access whose last byte is at the natural number last passes the bounds check: under `ADDR_POLICY = fault` it
must be below 4096, under `wrap4096` every address passes (R32). -/
abbrev State.canAccess (s : State) (last : Nat) : Prop := s.params.addrPolicy = .wrap4096 ∨ last < 4096

/-! ## What the rules of single instructions are stated with -/

/-- The result and the flag of a flag-writing instruction, as numbers: V[x] ends as res and VF as flag; where x is VF
itself, VF ends as the flag under `VF_ORDER = flag_last`, the default, and as the result under `flag_first` (R84). -/
def ResultAndFlag (x : Reg) (res flag : Nat) (s t : State) : Prop :=
  (x ≠ vf → (t.reg x).toNat = res ∧ (t.reg vf).toNat = flag) ∧
    (x = vf → (t.reg vf).toNat = if s.params.vfOrder = .flagFirst then res else flag)

/-- The pixel (r, c) lies under a set bit of the n-row sprite at I whose left column is cx and whose top row is cy:
bit 7 of a sprite byte is column cx, rows wrap modulo 32 and columns modulo 64 (R94, R95). -/
def SpriteCovers (s : State) (cx cy n : Nat) (r : Fin 32) (c : Fin 64) : Prop :=
  ∃ row col : Nat, row < n ∧ col < 8 ∧ (s.loadByte (s.i.toNat + row)).getLsbD (7 - col) = true ∧
    (cy + row) % 32 = r.val ∧ (cx + col) % 64 = c.val

/-- The undefined words, as R51 lists them: family 8 with n in 8, 9, A, B, C, D, F; family E with nn neither 9E nor A1;
family F with nn none of the nine selectors. -/
abbrev UndefinedWord (w : Word) : Prop :=
  (w.toNat / 4096 = 0x8 ∧ 8 ≤ w.toNat % 16 ∧ w.toNat % 16 ≠ 0xE) ∨
    (w.toNat / 4096 = 0xE ∧ w.toNat % 256 ≠ 0x9E ∧ w.toNat % 256 ≠ 0xA1) ∨
    (w.toNat / 4096 = 0xF ∧ w.toNat % 256 ∉ [0x07, 0x0A, 0x15, 0x18, 0x1E, 0x29, 0x33, 0x55, 0x65])

/-! ## Whole-machine rules -/

/-- The instructions that write VF as a side effect (R11). -/
def WritesFlag (i : Instr) : Prop :=
  ∃ x y, i = .addReg x y ∨ i = .subReg x y ∨ i = .shrReg x y ∨ i = .subnReg x y ∨ i = .shlReg x y ∨
    ∃ n, i = .drw x y n

/-- The instructions whose destination is V[r] (R10; the rules of spec/41_alu.md, R92, R99). -/
def HasDestination (i : Instr) (r : Reg) : Prop :=
  (∃ nn, i = .ldImm r nn ∨ i = .addImm r nn ∨ i = .rnd r nn) ∨
    (∃ y, i = .ldReg r y ∨ i = .orReg r y ∨ i = .andReg r y ∨ i = .xorReg r y ∨ i = .addReg r y ∨ i = .subReg r y ∨
      i = .shrReg r y ∨ i = .subnReg r y ∨ i = .shlReg r y) ∨
    i = .ldVxDt r ∨ ∃ x, i = .ldLoad x ∧ r ≤ x

/-- The instructions whose handler can raise a fault (R61, R117). -/
def CanFault (i : Instr) : Prop :=
  (∃ nnn, i = .sys nnn ∨ i = .call nnn) ∨ i = .ret ∨ (∃ x y n, i = .drw x y n) ∨
    ∃ x, i = .ldB x ∨ i = .ldStore x ∨ i = .ldLoad x ∨ i = .skp x ∨ i = .sknp x

/-- Which instructions write which piece of state: the column "written by" of spec/10_state.md section 1. -/
def WrittenBy (i : Instr) (q : Piece) : Prop :=
  match q with
  | .reg r => HasDestination i r ∨ (r = vf ∧ WritesFlag i)
  | .addrI => (∃ nnn, i = .ldI nnn) ∨ ∃ x, i = .addI x ∨ i = .ldF x
  | .pc => i ≠ .halt
  | .stackEntry _ => ∃ nnn, i = .call nnn
  | .sp => i = .ret ∨ ∃ nnn, i = .call nnn
  | .dt => ∃ x, i = .ldDtVx x
  | .st => ∃ x, i = .ldStVx x
  | .byte _ => ∃ x, i = .ldB x ∨ i = .ldStore x
  | .pixel _ _ => i = .cls ∨ ∃ x y n, i = .drw x y n
  | .waiting | .waitReg => ∃ x, i = .ldVxK x
  | .halt => i = .halt
  | .faultCause | .faultPc | .faultInfo => CanFault i
  | .randomPort => ∃ x nn, i = .rnd x nn
  | .key _ | .iDeadline | .tDeadline | .paused | .params | .now | .host => False

/-- Where the execution of i at s that raises no fault leaves PC: the table of R70. -/
def pcAfter (i : Instr) (s : State) : Word :=
  match i with
  | .halt => s.pc
  | .jp nnn | .call nnn => BitVec.ofNat 16 nnn.toNat
  | .jpV0 nnn => BitVec.ofNat 16 (nnn.toNat + (s.reg v0).toNat)
  | .ret => s.stack.toList.getD (s.sp.val - 1) 0#16 + 2#16
  | .seImm x nn => if s.reg x = nn then s.pc + 4#16 else s.pc + 2#16
  | .sneImm x nn => if s.reg x ≠ nn then s.pc + 4#16 else s.pc + 2#16
  | .seReg x y _ => if s.reg x = s.reg y then s.pc + 4#16 else s.pc + 2#16
  | .sneReg x y _ => if s.reg x ≠ s.reg y then s.pc + 4#16 else s.pc + 2#16
  | .skp x => if s.key.toList.getD (s.reg x).toNat false = true then s.pc + 4#16 else s.pc + 2#16
  | .sknp x => if s.key.toList.getD (s.reg x).toNat false = false then s.pc + 4#16 else s.pc + 2#16
  | .cls | .sys _ | .ldImm _ _ | .addImm _ _ | .ldReg _ _ | .orReg _ _ | .andReg _ _ | .xorReg _ _ | .addReg _ _
  | .subReg _ _ | .shrReg _ _ | .subnReg _ _ | .shlReg _ _ | .ldI _ | .rnd _ _ | .drw _ _ _ | .ldVxDt _ | .ldVxK _
  | .ldDtVx _ | .ldStVx _ | .addI _ | .ldF _ | .ldB _ | .ldStore _ | .ldLoad _ => s.pc + 2#16

/-- The state an iteration starts from: the host's action taken off its list and `NOW` sampled (R123). -/
def State.sampled (s : State) (elapsed : Nat) (rest : List HostInput) : State :=
  (s.setHost rest).setNow (s.now + elapsed)

/-- The state in which the instruction of an iteration executes: the sampled state with the instruction deadline one
period on (R123, R125). -/
def State.firing (s : State) (elapsed : Nat) (rest : List HostInput) : State :=
  (s.sampled elapsed rest).setIDeadline (s.iDeadline + s.params.tInstr)

/-- The state in which an iteration has unpaused the machine: the sampled state, no longer paused, with both deadlines
at its `NOW` (R127). -/
def State.unpausing (s : State) (elapsed : Nat) (rest : List HostInput) : State :=
  (((s.sampled elapsed rest).setPaused false).setIDeadline (s.now + elapsed)).setTDeadline (s.now + elapsed)

/-- From t to u the timers were counted down once, each with a floor of 0, at a timer deadline of now, which has moved
on by one period; nothing else has changed (R126). -/
def CountedOnce (now : Nat) (t u : State) : Prop :=
  u.dt.toNat = t.dt.toNat - 1 ∧ u.st.toNat = t.st.toNat - 1 ∧ u.tDeadline = now + t.params.tTimer ∧
    ChangesOnly (fun q => q = .dt ∨ q = .st ∨ q = .tDeadline) t u

/-- What events other than a pause toggle and an exit request do to a machine that is neither waiting nor paused: a press
sets its key, a release clears it, a single step is ignored; in order (R124, R128). -/
def State.afterKeys (s : State) : List Event → State
  | [] => s
  | .keyPress k :: es => (s.setKey k true).afterKeys es
  | .keyRelease k :: es => (s.setKey k false).afterKeys es
  | .pauseToggle :: es => s.afterKeys es
  | .singleStep :: es => s.afterKeys es
  | .exitRequest :: es => s.afterKeys es

/-- The events are key events and single steps alone: they leave a running machine running (R124, R128). -/
abbrev KeysOnly (events : List Event) : Prop := Event.pauseToggle ∉ events ∧ Event.exitRequest ∉ events

/-- The state in which the instruction of an iteration with such events executes: the events applied to the sampled
state before the instruction check, and the instruction deadline one period on (R123). -/
def State.firingAfter (s : State) (elapsed : Nat) (events : List Event) (rest : List HostInput) : State :=
  ((s.sampled elapsed rest).afterKeys events).setIDeadline (s.iDeadline + s.params.tInstr)

/-- The machine runs: no fault, not halted, not paused, not waiting (R138). -/
abbrev State.Running (s : State) : Prop :=
  s.faultCause = .noFault ∧ s.halt = false ∧ s.paused = false ∧ s.waiting = false

/-! ## The invariant -/

/-- What every step keeps: memory in canonical form; positive periods (R5); no deadline more than one period ahead of
`NOW` (R123, R127); the fault registers 0 until a fault is recorded (R25, R141) and `FAULT_PC` the PC of the dead
machine after (R118); and never a fault together with a halt (R117, R122). -/
structure State.Inv (s : State) : Prop where
  /-- Memory is in canonical form. -/
  memory : Memory.wf s.mem = true
  /-- `T_INSTR` is positive. -/
  instrPeriod : 0 < s.params.tInstr
  /-- `T_TIMER` is positive. -/
  timerPeriod : 0 < s.params.tTimer
  /-- `I_DEADLINE` is at most one period ahead. -/
  instrDeadline : s.iDeadline ≤ s.now + s.params.tInstr
  /-- `T_DEADLINE` is at most one period ahead. -/
  timerDeadline : s.tDeadline ≤ s.now + s.params.tTimer
  /-- No fault recorded: the other two fault registers are 0. -/
  noFault : s.faultCause = .noFault → s.faultPc = 0#16 ∧ s.faultInfo = 0#16
  /-- A fault recorded: PC is still the address of the faulting instruction. -/
  faultAtPc : s.faultCause ≠ .noFault → s.faultPc = s.pc
  /-- A faulted machine is not halted. -/
  notBoth : ¬ (s.faultCause ≠ .noFault ∧ s.halt = true)

/-! ## Safe runs -/

/-- The machine has not gone wrong: no fault is recorded (R110, R156). -/
def State.Safe (s : State) : Prop := s.faultCause = .noFault

/-- The normal end of a run: halted, and not gone wrong (R122, R156). -/
def State.Ended (s : State) : Prop := s.halt = true ∧ s.Safe

end Sys2Proof.Machine
end

