-- ==== Sys2Proof/Certificates/Slice0/Obligations.lean ====
section
/-! DEFINITION. The statements for the provers: what the numbered rules of spec/ say of the machine. Every statement is
over every state, every operand and, through `State.params`, every value of the open parameters. -/

open Sys2Proof Sys2Proof.Machine

/-! ## Encoding and decode -/

/-- Words written out from the rows of R50 (spec/95_test_vectors.md V-DEC-1) decode to what they stand for, the first
byte being the one at the lower address. A sanity statement. -/
def Obligations.DecodesWrittenOutWords : Prop :=
  decodeBytes 0x00#8 0x00#8 = .ok .halt ∧ decodeBytes 0x00#8 0xE0#8 = .ok .cls ∧
    decodeBytes 0x01#8 0xE0#8 = .ok (.sys 0x1E0#12) ∧ decodeBytes 0x2A#8 0xBC#8 = .ok (.call 0xABC#12) ∧
    decodeBytes 0x3A#8 0x7F#8 = .ok (.seImm 0xA 0x7F#8) ∧ decodeBytes 0x51#8 0x2F#8 = .ok (.seReg 1 2 0xF#4) ∧
    decodeBytes 0x81#8 0x2E#8 = .ok (.shlReg 1 2) ∧ decodeBytes 0xD1#8 0x25#8 = .ok (.drw 1 2 5#4) ∧
    decodeBytes 0xE1#8 0xA1#8 = .ok (.sknp 1) ∧ decodeBytes 0xF1#8 0x65#8 = .ok (.ldLoad 1) ∧
    decodeBytes 0x81#8 0x28#8 = .error (.undefinedAluSelector 0x8#4)

/-- Decode and encode agree: every well-formed instruction, with every operand at every value its field admits, is
read back from its own word (R47, R49). -/
def Obligations.DecodeOfEncode : Prop := ∀ i : Instr, i.wf = true → decodeWord (encode i) = .ok i

/-- No bit of a word is lost: a word that decodes is the word of the instruction read, and that instruction is well
formed. The model's choice, not a rule: that the unexamined nibble of families 5 and 9 and the unread y of the shifts
come back is how the model carries them (DESIGN CHOICE, notes/assumptions/13.md); R53 says only that no meaning looks at
them. The fields and the decoder are those of R47 and R49. -/
def Obligations.EncodeOfDecode : Prop := ∀ (w : Word) (i : Instr), decodeWord w = .ok i → encode i = w ∧ i.wf = true

/-- The undefined words are exactly those of R51, the zero word is not among them, and executing one raises DecodeFault
with the word as its info, before any effect (R112). -/
def Obligations.UndefinedWordsRaiseDecodeFault : Prop :=
  (∀ w : Word, UndefinedWord w ↔ ∃ e, decodeWord w = .error e) ∧ ¬ UndefinedWord 0#16 ∧
    ∀ (s : State) (w : Word), s.fetch = .ok w → UndefinedWord w →
      ∃ t, executeOne s = .next t ∧ RaisedFault .decodeFault w s t

/-- The decoder follows the opcode map: a word that decodes satisfies its row, `w & mask = match`, and a word that
satisfies a row, for SYS after the three exact words have failed, decodes to an instruction of that row (R50). -/
def Obligations.DecodeFollowsOpcodeMap : Prop :=
  (∀ (w : Word) (i : Instr), decodeWord w = .ok i → w &&& opcodeMask i = opcodeMatch i) ∧
    ∀ (w : Word) (i : Instr), w &&& opcodeMask i = opcodeMatch i →
      ((∃ nnn, i = .sys nnn) → w ≠ 0x0000#16 ∧ w ≠ 0x00E0#16 ∧ w ≠ 0x00EE#16) →
      ∃ j, decodeWord w = .ok j ∧ opcodeMask j = opcodeMask i ∧ opcodeMatch j = opcodeMatch i

/-! ## A step runs the decoded instruction -/

/-- Where the machine runs, the instruction clock is due and the bytes at PC decode, a step whose events are none, or key
events and single steps, is the handler of that instruction, in the state in which those events have been applied and
the instruction deadline is one period on, followed by the timer phase, which a fault leaves out (R45, R123, R125; under
`wrap4096` as notes/assumptions/11.md reads R32). -/
def Obligations.StepRunsDecodedInstruction : Prop :=
  ∀ (s : State) (elapsed : Nat) (events : List Event) (rest : List HostInput) (i : Instr),
    s.host = .iterate elapsed events :: rest → KeysOnly events → s.Running → s.iDeadline ≤ s.now + elapsed →
    s.canAccess (s.pc.toNat + 1) →
    decodeBytes (s.loadByte s.pc.toNat) (s.loadByte (s.pc.toNat + 1)) = .ok i →
    ∃ t, exec i (s.firingAfter elapsed events rest) = .next t ∧ step s = .next (if t.faulted then t else t.timerPhase)

/-- One execution of the engine: a fetch that leaves memory raises AddressFault with the lowest address out of range;
else the word is the two bytes at PC, big-endian, and it raises DecodeFault or its handler runs, at the same PC
(R31, R32, R45, R117; under `wrap4096` as notes/assumptions/11.md reads R32). -/
def Obligations.ExecuteOneFetchesBigEndian : Prop :=
  ∀ s : State,
    (¬ s.canAccess (s.pc.toNat + 1) →
      ∃ t, executeOne s = .next t ∧ RaisedFault .addressFault (BitVec.ofNat 16 (max s.pc.toNat 4096)) s t) ∧
    (s.canAccess (s.pc.toNat + 1) → ∀ w : Word,
      w.toNat = (s.loadByte s.pc.toNat).toNat * 256 + (s.loadByte (s.pc.toNat + 1)).toNat →
      (∀ i, decodeWord w = .ok i → executeOne s = exec i s) ∧
      (∀ e, decodeWord w = .error e → ∃ t, executeOne s = .next t ∧ RaisedFault .decodeFault w s t))

/-- Every instruction, in every state and with every operand, answers a next state: no form is refused and none stops
the machine but by the fault it records. The model's choice, not a rule: that an execution which raises a fault answers
a next state is DEDUCED (notes/assumptions/9.md), and that exec answers in states in which the scheduler never calls it
is a DESIGN CHOICE (notes/assumptions/14.md). -/
def Obligations.ExecAlwaysAnswers : Prop := ∀ (i : Instr) (s : State), ∃ t, exec i s = .next t

/-! ## Loads and ALU -/

/-- LD Vx,nn, LD Vx,Vy and LD Vx,DT write the value to V[x] and go on at PC + 2 (R72, R74, R99). -/
def Obligations.LoadsWriteTheirDestination : Prop :=
  ∀ (x y : Reg) (nn : Byte) (s : State),
    (∃ t, exec (.ldImm x nn) s = .next t ∧ t.reg x = nn ∧ t.pc = s.pc + 2#16 ∧
      ChangesOnly (fun q => q = .reg x ∨ q = .pc) s t) ∧
    (∃ t, exec (.ldReg x y) s = .next t ∧ t.reg x = s.reg y ∧ t.pc = s.pc + 2#16 ∧
      ChangesOnly (fun q => q = .reg x ∨ q = .pc) s t) ∧
    (∃ t, exec (.ldVxDt x) s = .next t ∧ t.reg x = s.dt ∧ t.pc = s.pc + 2#16 ∧
      ChangesOnly (fun q => q = .reg x ∨ q = .pc) s t)

/-- ADD Vx,nn wraps modulo 256 and writes no flag (R73). -/
def Obligations.AddImmediateWraps : Prop :=
  ∀ (x : Reg) (nn : Byte) (s : State),
    ∃ t, exec (.addImm x nn) s = .next t ∧ (t.reg x).toNat = ((s.reg x).toNat + nn.toNat) % 256 ∧
      t.pc = s.pc + 2#16 ∧ ChangesOnly (fun q => q = .reg x ∨ q = .pc) s t

/-- OR, AND and XOR act bit by bit on the latched operands and leave VF alone unless it is the destination
(R75, R76, R77). -/
def Obligations.LogicalOperationsBitByBit : Prop :=
  ∀ (x y : Reg) (s : State),
    (∃ t, exec (.orReg x y) s = .next t ∧
      (∀ k, (t.reg x).getLsbD k = ((s.reg x).getLsbD k || (s.reg y).getLsbD k)) ∧ t.pc = s.pc + 2#16 ∧
      ChangesOnly (fun q => q = .reg x ∨ q = .pc) s t) ∧
    (∃ t, exec (.andReg x y) s = .next t ∧
      (∀ k, (t.reg x).getLsbD k = ((s.reg x).getLsbD k && (s.reg y).getLsbD k)) ∧ t.pc = s.pc + 2#16 ∧
      ChangesOnly (fun q => q = .reg x ∨ q = .pc) s t) ∧
    (∃ t, exec (.xorReg x y) s = .next t ∧
      (∀ k, (t.reg x).getLsbD k = ((s.reg x).getLsbD k ^^ (s.reg y).getLsbD k)) ∧ t.pc = s.pc + 2#16 ∧
      ChangesOnly (fun q => q = .reg x ∨ q = .pc) s t)

/-- ADD Vx,Vy: the sum modulo 256, and VF = 1 exactly where it does not overflow (R78; `ResultAndFlag` for x = 15). -/
def Obligations.AddRegistersInvertedFlag : Prop :=
  ∀ (x y : Reg) (s : State),
    ∃ t, exec (.addReg x y) s = .next t ∧
      ResultAndFlag x (((s.reg x).toNat + (s.reg y).toNat) % 256)
        (if (s.reg x).toNat + (s.reg y).toNat < 256 then 1 else 0) s t ∧
      t.pc = s.pc + 2#16 ∧ ChangesOnly (fun q => q = .reg x ∨ q = .reg vf ∨ q = .pc) s t

/-- SUB and SUBN: the difference modulo 256, and VF = 1 exactly where nothing is borrowed (R79, R81). -/
def Obligations.SubtractBorrowFlag : Prop :=
  ∀ (x y : Reg) (s : State),
    (∃ t, exec (.subReg x y) s = .next t ∧
      ResultAndFlag x (((s.reg x).toNat + 256 - (s.reg y).toNat) % 256)
        (if (s.reg y).toNat ≤ (s.reg x).toNat then 1 else 0) s t ∧
      t.pc = s.pc + 2#16 ∧ ChangesOnly (fun q => q = .reg x ∨ q = .reg vf ∨ q = .pc) s t) ∧
    (∃ t, exec (.subnReg x y) s = .next t ∧
      ResultAndFlag x (((s.reg y).toNat + 256 - (s.reg x).toNat) % 256)
        (if (s.reg x).toNat ≤ (s.reg y).toNat then 1 else 0) s t ∧
      t.pc = s.pc + 2#16 ∧ ChangesOnly (fun q => q = .reg x ∨ q = .reg vf ∨ q = .pc) s t)

/-- SHR: V[x] halved, VF its old bit 0, whatever y is (R80). -/
def Obligations.ShiftRightSingleRegister : Prop :=
  ∀ (x y : Reg) (s : State),
    ∃ t, exec (.shrReg x y) s = .next t ∧ ResultAndFlag x ((s.reg x).toNat / 2) ((s.reg x).toNat % 2) s t ∧
      t.pc = s.pc + 2#16 ∧ ChangesOnly (fun q => q = .reg x ∨ q = .reg vf ∨ q = .pc) s t

/-- SHL: V[x] doubled modulo 256, VF its old bit 7 as 0x00 or 0x80, whatever y is (R82). That V[y] is not read is the
spec's own inference ("derived: from rule R80's single-register semantics"). -/
def Obligations.ShiftLeftKeepsRawBit : Prop :=
  ∀ (x y : Reg) (s : State),
    ∃ t, exec (.shlReg x y) s = .next t ∧
      ResultAndFlag x (2 * (s.reg x).toNat % 256) (if 0x80 ≤ (s.reg x).toNat then 0x80 else 0) s t ∧
      t.pc = s.pc + 2#16 ∧ ChangesOnly (fun q => q = .reg x ∨ q = .reg vf ∨ q = .pc) s t

/-- RND: the byte of the RND port ANDed with nn; the result has no bit that nn has not (R83). The model's choice, not a
rule: that the byte is the next one the host has listed or, past the list, the free value of a counter that moves on, and
how the record of the port moves (DESIGN CHOICE, notes/assumptions/5.md). -/
def Obligations.RandomMasksPortByte : Prop :=
  ∀ (x : Reg) (nn : Byte) (s : State),
    ∃ t, exec (.rnd x nn) s = .next t ∧
      (∀ b bs, s.rnd = b :: bs → t.reg x = b &&& nn ∧ t.rnd = bs ∧ t.draws = s.draws) ∧
      (s.rnd = [] → t.reg x = Config.rndByte s.draws &&& nn ∧ t.rnd = [] ∧ t.draws = s.draws + 1) ∧
      (∀ k, (t.reg x).getLsbD k = true → nn.getLsbD k = true) ∧ t.pc = s.pc + 2#16 ∧
      ChangesOnly (fun q => q = .reg x ∨ q = .pc ∨ q = .randomPort) s t

/-! ## Control transfer -/

/-- HALT sets the HALT flag and nothing else; the step that executes the zero word still runs its timer phase; and an
iteration of the halted machine changes nothing but the model's record of time and of the host's list (R60; which bytes
are fetched under `wrap4096`, of which R60 says nothing, is R32 as notes/assumptions/11.md reads it, DEDUCED). -/
def Obligations.HaltOnZeroWord : Prop :=
  (∀ s : State, ∃ t, exec .halt s = .next t ∧ t.halt = true ∧ ChangesOnly (· = .halt) s t) ∧
    (∀ (s : State) (elapsed : Nat) (rest : List HostInput),
      s.host = .iterate elapsed [] :: rest → s.Running → s.iDeadline ≤ s.now + elapsed →
      s.canAccess (s.pc.toNat + 1) → s.loadByte s.pc.toNat = 0#8 → s.loadByte (s.pc.toNat + 1) = 0#8 →
      step s = .next (((s.firing elapsed rest).setHalt true).timerPhase)) ∧
    ∀ (s : State) (elapsed : Nat) (events : List Event) (rest : List HostInput),
      s.halt = true → s.host = .iterate elapsed events :: rest →
      ∃ t, step s = .next t ∧ ChangesOnly (fun q => q = .now ∨ q = .host) s t

/-- SYS raises DecodeFault with its own word under the default policy, and only goes on at PC + 2 under
`SYS_POLICY = nop` (R61). -/
def Obligations.SysByPolicy : Prop :=
  ∀ (nnn : Addr12) (s : State),
    (s.params.sysPolicy = .fault →
      ∃ t, exec (.sys nnn) s = .next t ∧ RaisedFault .decodeFault (encode (.sys nnn)) s t) ∧
    (s.params.sysPolicy = .nop →
      ∃ t, exec (.sys nnn) s = .next t ∧ t.pc = s.pc + 2#16 ∧ ChangesOnly (· = .pc) s t)

/-- RET: SP goes down and PC is the popped entry plus 2; at SP = 0 it raises StackUnderflow (R62, R113). -/
def Obligations.ReturnPopsAndAddsTwo : Prop :=
  ∀ s : State,
    (∀ j : Fin 16, s.sp.val = j.val + 1 →
      ∃ t, exec .ret s = .next t ∧ t.sp.val = j.val ∧ t.pc = s.stack[j.val] + 2#16 ∧
        ChangesOnly (fun q => q = .sp ∨ q = .pc) s t) ∧
    (s.sp.val = 0 → ∃ t, exec .ret s = .next t ∧ RaisedFault .stackUnderflow 0#16 s t)

/-- JP goes to nnn and JP V0 to nnn + V[0]; neither checks its target (R63, R69). -/
def Obligations.JumpsGoToTarget : Prop :=
  ∀ (nnn : Addr12) (s : State),
    (∃ t, exec (.jp nnn) s = .next t ∧ t.pc.toNat = nnn.toNat ∧ ChangesOnly (· = .pc) s t) ∧
    (∃ t, exec (.jpV0 nnn) s = .next t ∧ t.pc.toNat = nnn.toNat + (s.reg v0).toNat ∧ ChangesOnly (· = .pc) s t)

/-- CALL stores its own address in STACK[SP], raises SP and goes to nnn; at SP = 16 it raises StackOverflow
(R64, R114). -/
def Obligations.CallPushesItsOwnAddress : Prop :=
  ∀ (nnn : Addr12) (s : State),
    (∀ j : Fin 16, s.sp.val = j.val →
      ∃ t, exec (.call nnn) s = .next t ∧ t.stack[j.val] = s.pc ∧ t.sp.val = j.val + 1 ∧ t.pc.toNat = nnn.toNat ∧
        ChangesOnly (fun q => q = .stackEntry j ∨ q = .sp ∨ q = .pc) s t) ∧
    (s.sp.val = 16 → ∃ t, exec (.call nnn) s = .next t ∧ RaisedFault .stackOverflow 0#16 s t)

/-- A RET right after a CALL comes back to the instruction after the CALL with the stack at its old depth
(R62, R64). -/
def Obligations.ReturnComesBackFromCall : Prop :=
  ∀ (nnn : Addr12) (s : State) (j : Fin 16), s.sp.val = j.val →
    ∃ t u, exec (.call nnn) s = .next t ∧ exec .ret t = .next u ∧ u.pc = s.pc + 2#16 ∧ u.sp = s.sp ∧
      ChangesOnly (fun q => q = .stackEntry j ∨ q = .pc) s u

/-- The comparison skips: PC + 4 where the condition holds, else PC + 2, and nothing else, whatever the unexamined low
nibble is (R65, R66, R67, R68). -/
def Obligations.ComparisonSkips : Prop :=
  ∀ (x y : Reg) (nn : Byte) (low : Nibble) (s : State),
    (∃ t, exec (.seImm x nn) s = .next t ∧ t.pc = (if s.reg x = nn then s.pc + 4#16 else s.pc + 2#16) ∧
      ChangesOnly (· = .pc) s t) ∧
    (∃ t, exec (.sneImm x nn) s = .next t ∧ t.pc = (if s.reg x = nn then s.pc + 2#16 else s.pc + 4#16) ∧
      ChangesOnly (· = .pc) s t) ∧
    (∃ t, exec (.seReg x y low) s = .next t ∧ t.pc = (if s.reg x = s.reg y then s.pc + 4#16 else s.pc + 2#16) ∧
      ChangesOnly (· = .pc) s t) ∧
    (∃ t, exec (.sneReg x y low) s = .next t ∧ t.pc = (if s.reg x = s.reg y then s.pc + 2#16 else s.pc + 4#16) ∧
      ChangesOnly (· = .pc) s t)

/-- Every instruction leaves PC as its class in the table of R70 says, and one that raises a fault leaves it alone. -/
def Obligations.EachInstructionWritesPcByItsClass : Prop :=
  ∀ (i : Instr) (s t : State), s.faultCause = .noFault → exec i s = .next t →
    t.pc = if t.faultCause = .noFault then pcAfter i s else s.pc

/-! ## Address register and memory -/

/-- LD I, ADD I and LD F write I: nnn, I + V[x] modulo 2^16, and 5 * V[x] for every V[x]; no flag and no fault
(R87, R88, R89). -/
def Obligations.AddressRegisterWrites : Prop :=
  ∀ (x : Reg) (nnn : Addr12) (s : State),
    (∃ t, exec (.ldI nnn) s = .next t ∧ t.i.toNat = nnn.toNat ∧ t.pc = s.pc + 2#16 ∧
      ChangesOnly (fun q => q = .addrI ∨ q = .pc) s t) ∧
    (∃ t, exec (.addI x) s = .next t ∧ t.i.toNat = (s.i.toNat + (s.reg x).toNat) % 65536 ∧ t.pc = s.pc + 2#16 ∧
      ChangesOnly (fun q => q = .addrI ∨ q = .pc) s t) ∧
    (∃ t, exec (.ldF x) s = .next t ∧ t.i.toNat = 5 * (s.reg x).toNat ∧ t.pc = s.pc + 2#16 ∧
      ChangesOnly (fun q => q = .addrI ∨ q = .pc) s t)

/-- LD B stores the decimal digits of V[x] at I, I + 1, I + 2, or raises AddressFault with the lowest address out of
range and stores nothing (R90). Under `ADDR_POLICY = wrap4096`, which that rule does not give, each byte address is
reduced on its own: the model's reading of R32 (DEDUCED, notes/assumptions/11.md). -/
def Obligations.BcdStore : Prop :=
  ∀ (x : Reg) (s : State), Memory.wf s.mem = true →
    (s.canAccess (s.i.toNat + 2) →
      ∃ t, exec (.ldB x) s = .next t ∧
        (memRead t.mem (memIndex s.i.toNat)).toNat = (s.reg x).toNat / 100 ∧
        (memRead t.mem (memIndex (s.i.toNat + 1))).toNat = (s.reg x).toNat / 10 % 10 ∧
        (memRead t.mem (memIndex (s.i.toNat + 2))).toNat = (s.reg x).toNat % 10 ∧
        t.pc = s.pc + 2#16 ∧
        ChangesOnly (fun q => q = .pc ∨ ∃ k, k < 3 ∧ q = .byte (memIndex (s.i.toNat + k))) s t) ∧
    (¬ s.canAccess (s.i.toNat + 2) →
      ∃ t, exec (.ldB x) s = .next t ∧ RaisedFault .addressFault (BitVec.ofNat 16 (max s.i.toNat 4096)) s t)

/-- LD [I],Vx stores V[k] at I + k for k = 0 to x and leaves I alone, or raises AddressFault and stores nothing
(R91). Under `ADDR_POLICY = wrap4096`, which that rule does not give, each byte address is
reduced on its own: the model's reading of R32 (DEDUCED, notes/assumptions/11.md). -/
def Obligations.BlockStore : Prop :=
  ∀ (x : Reg) (s : State), Memory.wf s.mem = true →
    (s.canAccess (s.i.toNat + x.val) →
      ∃ t, exec (.ldStore x) s = .next t ∧
        (∀ k : Reg, k ≤ x → memRead t.mem (memIndex (s.i.toNat + k.val)) = s.reg k) ∧ t.pc = s.pc + 2#16 ∧
        ChangesOnly (fun q => q = .pc ∨ ∃ k : Reg, k ≤ x ∧ q = .byte (memIndex (s.i.toNat + k.val))) s t) ∧
    (¬ s.canAccess (s.i.toNat + x.val) →
      ∃ t, exec (.ldStore x) s = .next t ∧ RaisedFault .addressFault (BitVec.ofNat 16 (max s.i.toNat 4096)) s t)

/-- LD Vx,[I] loads V[k] from I + k for k = 0 to x and leaves I alone, or raises AddressFault and loads nothing
(R92). Under `ADDR_POLICY = wrap4096`, which that rule does not give, each byte address is
reduced on its own: the model's reading of R32 (DEDUCED, notes/assumptions/11.md). -/
def Obligations.BlockLoad : Prop :=
  ∀ (x : Reg) (s : State),
    (s.canAccess (s.i.toNat + x.val) →
      ∃ t, exec (.ldLoad x) s = .next t ∧
        (∀ k : Reg, k ≤ x → t.reg k = memRead s.mem (memIndex (s.i.toNat + k.val))) ∧ t.pc = s.pc + 2#16 ∧
        ChangesOnly (fun q => q = .pc ∨ ∃ k : Reg, k ≤ x ∧ q = .reg k) s t) ∧
    (¬ s.canAccess (s.i.toNat + x.val) →
      ∃ t, exec (.ldLoad x) s = .next t ∧ RaisedFault .addressFault (BitVec.ofNat 16 (max s.i.toNat 4096)) s t)

/-- What a block store has put into memory a block load brings back: in whatever state, with the same memory, address
register and parameters, the registers are loaded again, V0 to Vx hold what they held (R91, R92; under `wrap4096` as
notes/assumptions/11.md reads R32). -/
def Obligations.BlockLoadUndoesBlockStore : Prop :=
  ∀ (x : Reg) (s u : State), Memory.wf s.mem = true → s.canAccess (s.i.toNat + x.val) →
    ∃ t, exec (.ldStore x) s = .next t ∧
      (u.mem = t.mem → u.i = t.i → u.params = t.params →
        ∃ w, exec (.ldLoad x) u = .next w ∧ ∀ k : Reg, k ≤ x → w.reg k = s.reg k)

/-- A store is seen by the next fetch: bytes stored at PC and PC + 1 are the word fetched (R39, R41; the spec marks
R41 as derived; under `wrap4096` as notes/assumptions/11.md reads R32). -/
def Obligations.StoresAreFetched : Prop :=
  ∀ (s : State) (hi lo : Byte), Memory.wf s.mem = true → s.canAccess (s.pc.toNat + 1) →
    ∃ w, ((s.storeByte s.pc.toNat hi).storeByte (s.pc.toNat + 1) lo).fetch = .ok w ∧
      w.toNat = hi.toNat * 256 + lo.toNat

/-! ## Display -/

/-- CLS turns every pixel off, writes no flag and goes on at PC + 2 (R93). -/
def Obligations.ClearTurnsEveryPixelOff : Prop :=
  ∀ s : State, ∃ t, exec .cls s = .next t ∧ (∀ (r : Fin 32) (c : Fin 64), pixel t.disp r.val c.val = false) ∧
    t.pc = s.pc + 2#16 ∧ ChangesOnly (fun q => q = .pc ∨ ∃ r c, q = .pixel r c) s t

/-- DRW flips exactly the pixels under the set bits of the sprite, with wrap, and writes to VF 1 where one of them was
on and 0 else; a sprite that leaves memory raises AddressFault and draws nothing; n = 0 cannot fault
(R94). Under `ADDR_POLICY = wrap4096`, which that rule does not give, each byte address is
reduced on its own: the model's reading of R32 (DEDUCED, notes/assumptions/11.md). -/
def Obligations.DrawXorsSprite : Prop :=
  ∀ (x y : Reg) (n : Nibble) (s : State),
    (n.toNat = 0 ∨ s.canAccess (s.i.toNat + (n.toNat - 1)) →
      ∃ t, exec (.drw x y n) s = .next t ∧
        (∀ r c, SpriteCovers s (s.reg x).toNat (s.reg y).toNat n.toNat r c →
          pixel t.disp r.val c.val = !pixel s.disp r.val c.val) ∧
        ((∃ r c, SpriteCovers s (s.reg x).toNat (s.reg y).toNat n.toNat r c ∧ pixel s.disp r.val c.val = true) →
          t.reg vf = 1#8) ∧
        ((¬ ∃ r c, SpriteCovers s (s.reg x).toNat (s.reg y).toNat n.toNat r c ∧ pixel s.disp r.val c.val = true) →
          t.reg vf = 0#8) ∧
        t.pc = s.pc + 2#16 ∧
        ChangesOnly (fun q => q = .pc ∨ q = .reg vf ∨
          ∃ r c, SpriteCovers s (s.reg x).toNat (s.reg y).toNat n.toNat r c ∧ q = .pixel r c) s t) ∧
    (n.toNat ≠ 0 → ¬ s.canAccess (s.i.toNat + (n.toNat - 1)) →
      ∃ t, exec (.drw x y n) s = .next t ∧ RaisedFault .addressFault (BitVec.ofNat 16 (max s.i.toNat 4096)) s t)

/-- Drawing the same sprite again at the same place brings every pixel back; the second draw reports a collision
exactly where the first turned a pixel on (spec/43_display.md, the laws of the display, clause (a); the registers of
the second draw hold the coordinates the first one used; under `wrap4096` as notes/assumptions/11.md reads R32). -/
def Obligations.DoubleDrawRestoresDisplay : Prop :=
  ∀ (x y x2 y2 : Reg) (n : Nibble) (s : State), n.toNat = 0 ∨ s.canAccess (s.i.toNat + (n.toNat - 1)) →
    ∃ t, exec (.drw x y n) s = .next t ∧
      (t.reg x2 = s.reg x → t.reg y2 = s.reg y →
        ∃ u, exec (.drw x2 y2 n) t = .next u ∧
          (∀ (r : Fin 32) (c : Fin 64), pixel u.disp r.val c.val = pixel s.disp r.val c.val) ∧
          ((∃ r c, SpriteCovers s (s.reg x).toNat (s.reg y).toNat n.toNat r c ∧ pixel s.disp r.val c.val = false) →
            u.reg vf = 1#8) ∧
          ((¬ ∃ r c, SpriteCovers s (s.reg x).toNat (s.reg y).toNat n.toNat r c ∧ pixel s.disp r.val c.val = false) →
            u.reg vf = 0#8))

/-! ## Keys and timers -/

/-- SKP and SKNP skip on the level of KEY[V[x]]; a V[x] of 16 or more raises KeyIndexFault with V[x] as its info
(R97, R98, R116). -/
def Obligations.KeySkips : Prop :=
  ∀ (x : Reg) (s : State),
    (∀ k : Key, (s.reg x).toNat = k.val →
      (∃ t, exec (.skp x) s = .next t ∧ t.pc = (if s.keyDown k = true then s.pc + 4#16 else s.pc + 2#16) ∧
        ChangesOnly (· = .pc) s t) ∧
      (∃ t, exec (.sknp x) s = .next t ∧ t.pc = (if s.keyDown k = true then s.pc + 2#16 else s.pc + 4#16) ∧
        ChangesOnly (· = .pc) s t)) ∧
    (16 ≤ (s.reg x).toNat →
      (∃ t, exec (.skp x) s = .next t ∧ RaisedFault .keyIndexFault (BitVec.ofNat 16 (s.reg x).toNat) s t) ∧
      (∃ t, exec (.sknp x) s = .next t ∧ RaisedFault .keyIndexFault (BitVec.ofNat 16 (s.reg x).toNat) s t))

/-- LD DT,Vx and LD ST,Vx write the timer and touch no deadline; SOUND follows ST (R101, R102). -/
def Obligations.TimerMoves : Prop :=
  ∀ (x : Reg) (s : State),
    (∃ t, exec (.ldDtVx x) s = .next t ∧ t.dt = s.reg x ∧ t.pc = s.pc + 2#16 ∧
      ChangesOnly (fun q => q = .dt ∨ q = .pc) s t) ∧
    (∃ t, exec (.ldStVx x) s = .next t ∧ t.st = s.reg x ∧ (t.soundPort = true ↔ (s.reg x).toNat ≠ 0) ∧
      t.pc = s.pc + 2#16 ∧ ChangesOnly (fun q => q = .st ∨ q = .pc) s t)

/-- LD Vx,K enters the wait and completes at once without writing V[x]; while it waits no instruction executes; a
release does not lift the wait; the first press writes the key to V[x] and lifts it (R100). -/
def Obligations.WaitForKey : Prop :=
  ∀ (x : Reg) (s : State),
    ∃ t, exec (.ldVxK x) s = .next t ∧ t.waiting = true ∧ t.waitReg = x ∧ t.pc = s.pc + 2#16 ∧
      ChangesOnly (fun q => q = .waiting ∨ q = .waitReg ∨ q = .pc) s t ∧ instructionPhase t = .next t ∧
      ∀ k : Key,
        (∃ u, applyEvent (.keyRelease k) t = .next u ∧ u.waiting = true ∧ ChangesOnly (· = .key k) t u) ∧
        (∃ u, applyEvent (.keyPress k) t = .next u ∧ (u.reg x).toNat = k.val ∧ u.waiting = false ∧
          u.keyDown k = true ∧ ChangesOnly (fun q => q = .reg x ∨ q = .waiting ∨ q = .key k) t u)

/-! ## Faults -/

/-- Faults are precise: one execution of the engine that records a fault writes the fault registers, `FAULT_PC` with
the PC of the instruction, and nothing else (R118). -/
def Obligations.FaultsArePrecise : Prop :=
  ∀ s t : State, s.faultCause = .noFault → executeOne s = .next t → t.faultCause ≠ .noFault →
    t.faultPc = s.pc ∧ ChangesOnly Piece.isFault s t

/-- Each handler can raise only its own kind of fault, and the info is the one of the cause table (R111, R117). -/
def Obligations.EachHandlerRaisesItsOwnFault : Prop :=
  ∀ (i : Instr) (s t : State), s.faultCause = .noFault → exec i s = .next t →
    (t.faultCause = .decodeFault → (∃ nnn, i = .sys nnn) ∧ t.faultInfo = encode i) ∧
    (t.faultCause = .stackUnderflow → i = .ret ∧ s.sp.val = 0 ∧ t.faultInfo = 0#16) ∧
    (t.faultCause = .stackOverflow → (∃ nnn, i = .call nnn) ∧ s.sp.val = 16 ∧ t.faultInfo = 0#16) ∧
    (t.faultCause = .addressFault →
      ((∃ x y n, i = .drw x y n) ∨ ∃ x, i = .ldB x ∨ i = .ldStore x ∨ i = .ldLoad x) ∧
        t.faultInfo.toNat = max s.i.toNat 4096) ∧
    (t.faultCause = .keyIndexFault →
      ∃ x, (i = .skp x ∨ i = .sknp x) ∧ 16 ≤ (s.reg x).toNat ∧ t.faultInfo.toNat = (s.reg x).toNat)

/-- Once a fault is recorded, an iteration executes no instruction, applies no event and counts no timer; only a reset
leaves the state (R110). -/
def Obligations.DeadMachineDoesNothing : Prop :=
  ∀ (s : State) (elapsed : Nat) (rest : List HostInput), s.faultCause ≠ .noFault →
    (∀ events, s.host = .iterate elapsed events :: rest →
      ∃ t, step s = .next t ∧ t.faultCause ≠ .noFault ∧ ChangesOnly (fun q => q = .now ∨ q = .host) s t) ∧
    (∀ image : List Byte, image.length ≤ 3584 → s.host = .reset elapsed image :: rest →
      ∃ t, step s = .next t ∧ t.faultCause = .noFault)

/-! ## Halt, events and the two clocks -/

/-- HALT is set by the zero word or by the exit request; from then on no instruction executes, in the rest of the same
iteration or by a single step; the remaining events are applied and the timer check of that iteration still runs;
nothing but a reset clears it; later iterations do nothing; the HALTED port shows it (R122). -/
def Obligations.HaltedMachineRunsNothing : Prop :=
  (∀ (i : Instr) (s t : State), exec i s = .next t → s.halt = false → t.halt = true → i = .halt) ∧
    (∀ (events : List Event) (s : State), s.faultCause = .noFault →
      applyEvents (.exitRequest :: events) s = applyEvents events (s.setHalt true)) ∧
    (∀ (s : State) (elapsed : Nat) (rest : List HostInput), s.faultCause = .noFault → s.halt = false →
      s.host = .iterate elapsed [.exitRequest] :: rest →
      step s = .next ((s.sampled elapsed rest).setHalt true).timerPhase) ∧
    (∀ s : State, s.halt = true → instructionPhase s = .next s ∧ applyEvent .singleStep s = .next s) ∧
    (∀ (e : Event) (s t : State), s.halt = true → applyEvent e s = .next t → t.halt = true) ∧
    (∀ (s : State) (elapsed : Nat) (events : List Event) (rest : List HostInput), s.halt = true →
      s.host = .iterate elapsed events :: rest →
      ∃ t, step s = .next t ∧ t.halt = true ∧ ChangesOnly (fun q => q = .now ∨ q = .host) s t) ∧
    ∀ s : State, s.haltedPort = true ↔ s.halt = true

/-- The input events: a press sets the key and releases a wait, a release clears the key, the exit request sets HALT,
and a single step is one execution of the engine, deadlines untouched, while paused, not waiting and not halted, and
nothing otherwise (R124, R128). -/
def Obligations.InputEventsApplied : Prop :=
  ∀ s : State,
    (∀ k : Key, s.waiting = true →
      ∃ t, applyEvent (.keyPress k) s = .next t ∧ t.keyDown k = true ∧ (t.reg s.waitReg).toNat = k.val ∧
        t.waiting = false ∧ ChangesOnly (fun q => q = .key k ∨ q = .reg s.waitReg ∨ q = .waiting) s t) ∧
    (∀ k : Key, s.waiting = false →
      ∃ t, applyEvent (.keyPress k) s = .next t ∧ t.keyDown k = true ∧ ChangesOnly (· = .key k) s t) ∧
    (∀ k : Key, ∃ t, applyEvent (.keyRelease k) s = .next t ∧ t.keyDown k = false ∧ ChangesOnly (· = .key k) s t) ∧
    (∃ t, applyEvent .exitRequest s = .next t ∧ t.halt = true ∧ ChangesOnly (· = .halt) s t) ∧
    (∃ t, applyEvent .pauseToggle s = .next t ∧ t.paused = !s.paused ∧
      ChangesOnly (fun q => q = .paused ∨ q = .iDeadline ∨ q = .tDeadline) s t) ∧
    (s.paused = true ∧ s.waiting = false ∧ s.halt = false →
      applyEvent .singleStep s = executeOne s ∧
        ∃ t, executeOne s = .next t ∧ t.iDeadline = s.iDeadline ∧ t.tDeadline = s.tDeadline) ∧
    (¬ (s.paused = true ∧ s.waiting = false ∧ s.halt = false) → applyEvent .singleStep s = .next s)

/-- The pause toggle: pausing sets the flag alone; leaving sets both deadlines to now, so that both clocks are due in
that very iteration; the iteration that unpauses executes one instruction, none while waiting, and then, unless that
instruction faults, counts the timers down once, each deadline ending one period after now; a paused machine's iteration
without events changes nothing, and one with a key event applies that alone (R127). -/
def Obligations.PauseFreezesTheClocks : Prop :=
  (∀ s : State, s.paused = false →
    ∃ t, applyEvent .pauseToggle s = .next t ∧ t.paused = true ∧ ChangesOnly (· = .paused) s t) ∧
    (∀ s : State, s.paused = true →
      ∃ t, applyEvent .pauseToggle s = .next t ∧ t.paused = false ∧ t.iDeadline = s.now ∧ t.tDeadline = s.now ∧
        ChangesOnly (fun q => q = .paused ∨ q = .iDeadline ∨ q = .tDeadline) s t ∧ t.timerDue = true ∧
        (s.waiting = false → s.halt = false → t.instructionDue = true)) ∧
    (∀ (s : State) (elapsed : Nat) (rest : List HostInput), s.paused = true → s.halt = false →
      s.faultCause = .noFault → s.host = .iterate elapsed [.pauseToggle] :: rest →
      (s.waiting = false →
        ∃ t u, executeOne ((s.unpausing elapsed rest).setIDeadline (s.now + elapsed + s.params.tInstr)) = .next t ∧
          step s = .next u ∧ u.iDeadline = s.now + elapsed + s.params.tInstr ∧
          (t.faultCause ≠ .noFault → u = t) ∧ (t.faultCause = .noFault → CountedOnce (s.now + elapsed) t u)) ∧
      (s.waiting = true →
        ∃ u, step s = .next u ∧ u.iDeadline = s.now + elapsed ∧
          CountedOnce (s.now + elapsed) (s.unpausing elapsed rest) u)) ∧
    (∀ (s : State) (elapsed : Nat) (rest : List HostInput) (k : Key), s.paused = true → s.halt = false →
      s.faultCause = .noFault →
      (s.host = .iterate elapsed [.keyPress k] :: rest → step s = .next ((s.sampled elapsed rest).keyPress k)) ∧
      (s.host = .iterate elapsed [.keyRelease k] :: rest → step s = .next ((s.sampled elapsed rest).keyRelease k))) ∧
    ∀ (s : State) (elapsed : Nat) (rest : List HostInput), s.paused = true → s.host = .iterate elapsed [] :: rest →
      ∃ t, step s = .next t ∧ ChangesOnly (fun q => q = .now ∨ q = .host) s t

/-- The timer clock: due, it advances its deadline by one period and counts DT and ST down by 1, each with a floor of
0, once however many periods have elapsed; not due or paused, it does nothing (R126). -/
def Obligations.TimersCountDownToZero : Prop :=
  (∀ s : State, s.paused = false → s.tDeadline ≤ s.now →
    s.timerPhase.dt.toNat = s.dt.toNat - 1 ∧ s.timerPhase.st.toNat = s.st.toNat - 1 ∧
      s.timerPhase.tDeadline = s.tDeadline + s.params.tTimer ∧
      ChangesOnly (fun q => q = .dt ∨ q = .st ∨ q = .tDeadline) s s.timerPhase) ∧
    ∀ s : State, s.paused = true ∨ s.now < s.tDeadline → s.timerPhase = s

/-- One iteration: the events in order, a fault among them ending it; then, unless the events have left the machine
paused, waiting, halted or short of the instruction deadline, one execution of the engine with the deadline one period
on, a fault in which ends it; then the timer phase. A dead or ended machine's iteration does nothing (R123; that a step
which records a fault answers a next state is DEDUCED, notes/assumptions/9.md). -/
def Obligations.EventsThenBothClocks : Prop :=
  (∀ s : State, applyEvents [] s = .next s) ∧
    (∀ (e : Event) (es : List Event) (s t : State), applyEvent e s = .next t →
      applyEvents (e :: es) s = if t.faulted then .next t else applyEvents es t) ∧
    ∀ (s : State) (elapsed : Nat) (events : List Event) (rest : List HostInput),
      s.host = .iterate elapsed events :: rest →
      (s.faultCause ≠ .noFault ∨ s.halt = true → step s = .next (s.sampled elapsed rest)) ∧
      (s.faultCause = .noFault → s.halt = false →
        ∃ u, applyEvents events (s.sampled elapsed rest) = .next u ∧
          (u.faultCause ≠ .noFault → step s = .next u) ∧
          (u.faultCause = .noFault →
            (u.paused = true ∨ u.waiting = true ∨ u.halt = true ∨ u.now < u.iDeadline) →
            step s = .next u.timerPhase) ∧
          (u.Running → u.iDeadline ≤ u.now →
            ∃ t, executeOne (u.setIDeadline (u.iDeadline + u.params.tInstr)) = .next t ∧
              step s = .next (if t.faulted then t else t.timerPhase)))

/-- The instruction clock fires at most once an iteration, whatever key events and single steps the iteration carries:
before the deadline it applies them and is then the timer phase alone; from the deadline on, however many periods have
passed, it applies them, executes exactly one instruction and ends with the deadline one period on (R123, R125). -/
def Obligations.OneInstructionPerDeadline : Prop :=
  ∀ (s : State) (elapsed : Nat) (events : List Event) (rest : List HostInput), s.Running → KeysOnly events →
    s.host = .iterate elapsed events :: rest →
    (s.now + elapsed < s.iDeadline →
      ∃ u, step s = .next u ∧ u = ((s.sampled elapsed rest).afterKeys events).timerPhase ∧ u.iDeadline = s.iDeadline) ∧
    (s.iDeadline ≤ s.now + elapsed →
      ∃ t u, executeOne (s.firingAfter elapsed events rest) = .next t ∧ step s = .next u ∧
        u.iDeadline = s.iDeadline + s.params.tInstr ∧ u = if t.faulted then t else t.timerPhase)

/-- While the machine waits for a key, the instruction phase does nothing; an iteration without events is the timer
phase of the sampled state, so that the timers go on as usual and the instruction deadline stays; only a press lifts the
wait, and the press and the next instruction can share an iteration (R129). -/
def Obligations.WaitingSuspendsInstructions : Prop :=
  (∀ s : State, s.waiting = true → instructionPhase s = .next s) ∧
    (∀ (s : State) (elapsed : Nat) (rest : List HostInput), s.waiting = true → s.halt = false →
      s.faultCause = .noFault → s.host = .iterate elapsed [] :: rest →
      step s = .next ((s.sampled elapsed rest).timerPhase)) ∧
    (∀ (s : State) (elapsed : Nat) (rest : List HostInput), s.waiting = true → s.host = .iterate elapsed [] :: rest →
      ∃ t, step s = .next t ∧
        ChangesOnly (fun q => q = .dt ∨ q = .st ∨ q = .tDeadline ∨ q = .now ∨ q = .host) s t) ∧
    (∀ (e : Event) (s t : State), s.waiting = true → applyEvent e s = .next t → t.waiting = false →
      ∃ k, e = .keyPress k) ∧
    ∀ (s : State) (elapsed : Nat) (rest : List HostInput) (k : Key), s.waiting = true → s.paused = false →
      s.halt = false → s.faultCause = .noFault → s.host = .iterate elapsed [.keyPress k] :: rest →
      s.iDeadline ≤ s.now + elapsed →
      ∃ t, executeOne ((s.firing elapsed rest).keyPress k) = .next t ∧
        step s = .next (if t.faulted then t else t.timerPhase)

/-! ## Whole-machine rules -/

/-- Every piece of state is written by the instructions that the column "written by" of the state table names and by
no other: no instruction writes KEY, a deadline, PAUSED or a parameter, only CALL and RET touch the call stack, only
CLS and DRW the display, only LD B and LD [I],Vx memory (spec/10_state.md section 1). -/
def Obligations.EveryPieceHasItsWriters : Prop :=
  ∀ (i : Instr) (s t : State), exec i s = .next t → ChangesOnly (WrittenBy i) s t

/-- A reset with an image builds the machine afresh, whatever it was before: every piece of state at its reset value,
the image at 0x200, the font below it and zeros elsewhere, both deadlines at now (R140, R141, R142). -/
def Obligations.ResetBuildsTheMachine : Prop :=
  ∀ (s : State) (elapsed : Nat) (image : List Byte) (rest : List HostInput),
    s.host = .reset elapsed image :: rest → image.length ≤ 3584 →
    ∃ t, step s = .next t ∧ t.pc = 0x0200#16 ∧ t.sp.val = 0 ∧ (∀ x, t.reg x = 0#8) ∧ t.i = 0#16 ∧
      (∀ j : Fin 16, t.stack[j.val] = 0#16) ∧ t.dt = 0#8 ∧ t.st = 0#8 ∧
      (∀ (r : Fin 32) (c : Fin 64), pixel t.disp r.val c.val = false) ∧ (∀ k, t.keyDown k = false) ∧
      t.waiting = false ∧ t.waitReg = 0 ∧ t.paused = false ∧ t.halt = false ∧ t.faultPort = (0#3, 0#16, 0#16) ∧
      t.iDeadline = s.now + elapsed ∧ t.tDeadline = s.now + elapsed ∧
      (∀ (j : Nat) (h : j < image.length), memRead t.mem (0x200 + j) = image[j]) ∧
      (∀ a, a < 80 → some (memRead t.mem a) = fontBytes[a]?) ∧
      ∀ a, (80 ≤ a ∧ a < 0x200) ∨ (0x200 + image.length ≤ a ∧ a < 4096) → memRead t.mem a = 0#8

/-- A reset with an image of more than 3584 bytes is refused; every other step answers a next state. R143 gives the
refusal. The model's choice, not a rule: that it is the outcome of a step (DEDUCED, notes/assumptions/15.md), that a
step which records a fault answers a next state (DEDUCED, notes/assumptions/9.md), and that the host strobes on past the
end of its list (DESIGN CHOICE, notes/assumptions/4.md). -/
def Obligations.OversizeImageRefused : Prop :=
  ∀ s : State,
    (∀ elapsed image rest, s.host = .reset elapsed image :: rest → 3584 < image.length →
      step s = .refused .imageTooLong) ∧
    ((∀ elapsed image rest, s.host = .reset elapsed image :: rest → image.length ≤ 3584) → ∃ t, step s = .next t)

/-- The first instruction executed after a reset is the one at 0x200, in the first iteration, if that iteration carries no
PauseToggle (R144); nor an exit request, which halts the machine before its instruction check (R122). Key events are
applied first, and a single step is ignored. -/
def Obligations.FirstInstructionAtProgramBase : Prop :=
  ∀ (s : State) (e1 e2 : Nat) (image : List Byte) (events : List Event) (rest : List HostInput),
    s.host = .reset e1 image :: .iterate e2 events :: rest → KeysOnly events → image.length ≤ 3584 →
    ∃ t, step s = .next t ∧
      ∀ i, decodeBytes (memRead t.mem 0x200) (memRead t.mem 0x201) = .ok i →
        ∃ u, exec i (t.firingAfter e2 events rest) = .next u ∧ step t = .next (if u.faulted then u else u.timerPhase)

/-- The invariant holds at reset. -/
def Obligations.ResetMeetsInvariant : Prop := State.reset.Inv

/-- Every step keeps the invariant, from every state that meets it: canonical memory, positive periods, deadlines at
most one period ahead, fault registers 0 until a fault, FAULT_PC the PC after one, and never a fault with a halt. What
a step does past the end of the host's list is the model's choice (DESIGN CHOICE, notes/assumptions/4.md). -/
def Obligations.StepKeepsInvariant : Prop := ∀ s t : State, s.Inv → step s = .next t → t.Inv

/-- No step, a reset included, changes a parameter. The model's choice, not a rule: R5 names the parameters, and that
they stand in State and no step changes them is notes/assumptions/2.md, that a reset keeps them notes/assumptions/12.md
(both DESIGN CHOICE). -/
def Obligations.StepKeepsParameters : Prop := ∀ s t : State, step s = .next t → t.params = s.params

/-- Every iteration of the timed machine is a run of the untimed one: a sequence of its steps, each enabled where it is
taken, and at most one further timer tick in the halting iteration, that ends in the same state but for time (R131,
which the spec marks as derived). -/
def Obligations.TimedRunsAreUntimedRuns : Prop :=
  ∀ (s t : State) (elapsed : Nat) (events : List Event), s.stopped = false → iterate elapsed events s = .next t →
    ∃ (es : List UntimedEvent) (last : Bool) (u v : State),
      untimedRun es s = some u ∧ lastTimerTick last u = some v ∧ v.forgetTime = t.forgetTime
end

