-- ==== Sys2Proof/Laws/Decode.lean ====
section
/-! SUPPORT. The fields of an encoded word (R46, R47), each read back once. -/

namespace Sys2Proof

theorem append_toNat {m n : Nat} (a : BitVec m) (b : BitVec n) : (a ++ b).toNat = a.toNat * 2 ^ n + b.toNat := by
  rw [BitVec.toNat_append, Nat.shiftLeft_eq, Nat.mul_comm, Nat.two_pow_add_eq_or_of_lt b.isLt]

theorem fieldOp_val (w : Word) : (fieldOp w).val = w.toNat / 4096 := by
  have := w.isLt
  show (w.extractLsb' 12 4).toNat = _
  simp only [BitVec.extractLsb'_toNat, Nat.shiftRight_eq_div_pow]
  omega

theorem fieldX_val (w : Word) : (fieldX w).val = w.toNat / 256 % 16 := by
  show (w.extractLsb' 8 4).toNat = _
  simp only [BitVec.extractLsb'_toNat, Nat.shiftRight_eq_div_pow]

theorem fieldY_val (w : Word) : (fieldY w).val = w.toNat / 16 % 16 := by
  show (w.extractLsb' 4 4).toNat = _
  simp only [BitVec.extractLsb'_toNat, Nat.shiftRight_eq_div_pow]

theorem fieldN_toNat (w : Word) : (fieldN w).toNat = w.toNat % 16 := by
  simp only [fieldN, BitVec.extractLsb'_toNat, Nat.shiftRight_eq_div_pow]
  omega

theorem fieldNN_toNat (w : Word) : (fieldNN w).toNat = w.toNat % 256 := by
  simp only [fieldNN, BitVec.extractLsb'_toNat, Nat.shiftRight_eq_div_pow]
  omega

theorem fieldNNN_toNat (w : Word) : (fieldNNN w).toNat = w.toNat % 4096 := by
  simp only [fieldNNN, BitVec.extractLsb'_toNat, Nat.shiftRight_eq_div_pow]
  omega

theorem encodeA_toNat (op : Nibble) (nnn : Addr12) : (encodeA op nnn).toNat = op.toNat * 4096 + nnn.toNat :=
  append_toNat op nnn

theorem encodeI_toNat (op : Nibble) (x : Reg) (nn : Byte) :
    (encodeI op x nn).toNat = op.toNat * 4096 + x.val * 256 + nn.toNat := by
  show (op ++ (BitVec.ofFin x : Nibble) ++ nn).toNat = _
  rw [append_toNat, append_toNat]
  simp only [BitVec.toNat_ofFin]
  omega

theorem encodeR_toNat (op : Nibble) (x y : Reg) (n : Nibble) :
    (encodeR op x y n).toNat = op.toNat * 4096 + x.val * 256 + y.val * 16 + n.toNat := by
  show (op ++ (BitVec.ofFin x : Nibble) ++ (BitVec.ofFin y : Nibble) ++ n).toNat = _
  rw [append_toNat, append_toNat, append_toNat]
  simp only [BitVec.toNat_ofFin]
  omega

section
variable (op : Nibble) (x y : Reg) (n : Nibble) (nn : Byte) (nnn : Addr12)

@[simp] theorem fieldOp_encodeA : (fieldOp (encodeA op nnn)).val = op.toNat := by
  have := nnn.isLt
  rw [fieldOp_val, encodeA_toNat]; omega

@[simp] theorem fieldNNN_encodeA : fieldNNN (encodeA op nnn) = nnn := by
  have := nnn.isLt
  apply BitVec.eq_of_toNat_eq
  rw [fieldNNN_toNat, encodeA_toNat]; omega

@[simp] theorem fieldOp_encodeI : (fieldOp (encodeI op x nn)).val = op.toNat := by
  have := nn.isLt
  have := x.isLt
  rw [fieldOp_val, encodeI_toNat]; omega

@[simp] theorem fieldX_encodeI : fieldX (encodeI op x nn) = x := by
  have := nn.isLt
  have := x.isLt
  apply Fin.ext
  rw [fieldX_val, encodeI_toNat]; omega

@[simp] theorem fieldNN_encodeI : fieldNN (encodeI op x nn) = nn := by
  have := nn.isLt
  apply BitVec.eq_of_toNat_eq
  rw [fieldNN_toNat, encodeI_toNat]; omega

@[simp] theorem fieldOp_encodeR : (fieldOp (encodeR op x y n)).val = op.toNat := by
  have := n.isLt
  have := x.isLt
  have := y.isLt
  rw [fieldOp_val, encodeR_toNat]; omega

@[simp] theorem fieldX_encodeR : fieldX (encodeR op x y n) = x := by
  have := n.isLt
  have := x.isLt
  have := y.isLt
  apply Fin.ext
  rw [fieldX_val, encodeR_toNat]; omega

@[simp] theorem fieldY_encodeR : fieldY (encodeR op x y n) = y := by
  have := n.isLt
  have := y.isLt
  apply Fin.ext
  rw [fieldY_val, encodeR_toNat]; omega

@[simp] theorem fieldN_encodeR : fieldN (encodeR op x y n) = n := by
  have := n.isLt
  apply BitVec.eq_of_toNat_eq
  rw [fieldN_toNat, encodeR_toNat]; omega

end

/-- The bytes of a word put together again (R31). -/
theorem composeWord_split (w : Word) : composeWord (highByte w) (lowByte w) = w := by
  have := w.isLt
  apply BitVec.eq_of_toNat_eq
  simp only [composeWord, highByte, lowByte]
  rw [append_toNat]
  simp only [BitVec.extractLsb'_toNat, Nat.shiftRight_eq_div_pow]
  omega

end Sys2Proof
end

