-- ==== Sys2Proof/Laws/State.lean ====
section
/-! SUPPORT. One lemma per field of State per update of Machine/Ops.lean, each true by unfolding the update once, so that
no later proof unfolds a record update. -/

namespace Sys2Proof.Machine

variable (s : State)

/-! ### setReg -/

@[simp] theorem State.setReg_v (x : Reg) (b : Byte) : (s.setReg x b).v = s.v.set x.val b := rfl
@[simp] theorem State.setReg_i (x : Reg) (b : Byte) : (s.setReg x b).i = s.i := rfl
@[simp] theorem State.setReg_pc (x : Reg) (b : Byte) : (s.setReg x b).pc = s.pc := rfl
@[simp] theorem State.setReg_stack (x : Reg) (b : Byte) : (s.setReg x b).stack = s.stack := rfl
@[simp] theorem State.setReg_sp (x : Reg) (b : Byte) : (s.setReg x b).sp = s.sp := rfl
@[simp] theorem State.setReg_dt (x : Reg) (b : Byte) : (s.setReg x b).dt = s.dt := rfl
@[simp] theorem State.setReg_st (x : Reg) (b : Byte) : (s.setReg x b).st = s.st := rfl
@[simp] theorem State.setReg_mem (x : Reg) (b : Byte) : (s.setReg x b).mem = s.mem := rfl
@[simp] theorem State.setReg_disp (x : Reg) (b : Byte) : (s.setReg x b).disp = s.disp := rfl
@[simp] theorem State.setReg_key (x : Reg) (b : Byte) : (s.setReg x b).key = s.key := rfl
@[simp] theorem State.setReg_waiting (x : Reg) (b : Byte) : (s.setReg x b).waiting = s.waiting := rfl
@[simp] theorem State.setReg_waitReg (x : Reg) (b : Byte) : (s.setReg x b).waitReg = s.waitReg := rfl
@[simp] theorem State.setReg_iDeadline (x : Reg) (b : Byte) : (s.setReg x b).iDeadline = s.iDeadline := rfl
@[simp] theorem State.setReg_tDeadline (x : Reg) (b : Byte) : (s.setReg x b).tDeadline = s.tDeadline := rfl
@[simp] theorem State.setReg_paused (x : Reg) (b : Byte) : (s.setReg x b).paused = s.paused := rfl
@[simp] theorem State.setReg_halt (x : Reg) (b : Byte) : (s.setReg x b).halt = s.halt := rfl
@[simp] theorem State.setReg_faultCause (x : Reg) (b : Byte) : (s.setReg x b).faultCause = s.faultCause := rfl
@[simp] theorem State.setReg_faultPc (x : Reg) (b : Byte) : (s.setReg x b).faultPc = s.faultPc := rfl
@[simp] theorem State.setReg_faultInfo (x : Reg) (b : Byte) : (s.setReg x b).faultInfo = s.faultInfo := rfl
@[simp] theorem State.setReg_params (x : Reg) (b : Byte) : (s.setReg x b).params = s.params := rfl
@[simp] theorem State.setReg_now (x : Reg) (b : Byte) : (s.setReg x b).now = s.now := rfl
@[simp] theorem State.setReg_host (x : Reg) (b : Byte) : (s.setReg x b).host = s.host := rfl
@[simp] theorem State.setReg_rnd (x : Reg) (b : Byte) : (s.setReg x b).rnd = s.rnd := rfl
@[simp] theorem State.setReg_draws (x : Reg) (b : Byte) : (s.setReg x b).draws = s.draws := rfl

/-! ### setI -/

@[simp] theorem State.setI_v (w : Word) : (s.setI w).v = s.v := rfl
@[simp] theorem State.setI_i (w : Word) : (s.setI w).i = w := rfl
@[simp] theorem State.setI_pc (w : Word) : (s.setI w).pc = s.pc := rfl
@[simp] theorem State.setI_stack (w : Word) : (s.setI w).stack = s.stack := rfl
@[simp] theorem State.setI_sp (w : Word) : (s.setI w).sp = s.sp := rfl
@[simp] theorem State.setI_dt (w : Word) : (s.setI w).dt = s.dt := rfl
@[simp] theorem State.setI_st (w : Word) : (s.setI w).st = s.st := rfl
@[simp] theorem State.setI_mem (w : Word) : (s.setI w).mem = s.mem := rfl
@[simp] theorem State.setI_disp (w : Word) : (s.setI w).disp = s.disp := rfl
@[simp] theorem State.setI_key (w : Word) : (s.setI w).key = s.key := rfl
@[simp] theorem State.setI_waiting (w : Word) : (s.setI w).waiting = s.waiting := rfl
@[simp] theorem State.setI_waitReg (w : Word) : (s.setI w).waitReg = s.waitReg := rfl
@[simp] theorem State.setI_iDeadline (w : Word) : (s.setI w).iDeadline = s.iDeadline := rfl
@[simp] theorem State.setI_tDeadline (w : Word) : (s.setI w).tDeadline = s.tDeadline := rfl
@[simp] theorem State.setI_paused (w : Word) : (s.setI w).paused = s.paused := rfl
@[simp] theorem State.setI_halt (w : Word) : (s.setI w).halt = s.halt := rfl
@[simp] theorem State.setI_faultCause (w : Word) : (s.setI w).faultCause = s.faultCause := rfl
@[simp] theorem State.setI_faultPc (w : Word) : (s.setI w).faultPc = s.faultPc := rfl
@[simp] theorem State.setI_faultInfo (w : Word) : (s.setI w).faultInfo = s.faultInfo := rfl
@[simp] theorem State.setI_params (w : Word) : (s.setI w).params = s.params := rfl
@[simp] theorem State.setI_now (w : Word) : (s.setI w).now = s.now := rfl
@[simp] theorem State.setI_host (w : Word) : (s.setI w).host = s.host := rfl
@[simp] theorem State.setI_rnd (w : Word) : (s.setI w).rnd = s.rnd := rfl
@[simp] theorem State.setI_draws (w : Word) : (s.setI w).draws = s.draws := rfl

/-! ### setPc -/

@[simp] theorem State.setPc_v (w : Word) : (s.setPc w).v = s.v := rfl
@[simp] theorem State.setPc_i (w : Word) : (s.setPc w).i = s.i := rfl
@[simp] theorem State.setPc_pc (w : Word) : (s.setPc w).pc = w := rfl
@[simp] theorem State.setPc_stack (w : Word) : (s.setPc w).stack = s.stack := rfl
@[simp] theorem State.setPc_sp (w : Word) : (s.setPc w).sp = s.sp := rfl
@[simp] theorem State.setPc_dt (w : Word) : (s.setPc w).dt = s.dt := rfl
@[simp] theorem State.setPc_st (w : Word) : (s.setPc w).st = s.st := rfl
@[simp] theorem State.setPc_mem (w : Word) : (s.setPc w).mem = s.mem := rfl
@[simp] theorem State.setPc_disp (w : Word) : (s.setPc w).disp = s.disp := rfl
@[simp] theorem State.setPc_key (w : Word) : (s.setPc w).key = s.key := rfl
@[simp] theorem State.setPc_waiting (w : Word) : (s.setPc w).waiting = s.waiting := rfl
@[simp] theorem State.setPc_waitReg (w : Word) : (s.setPc w).waitReg = s.waitReg := rfl
@[simp] theorem State.setPc_iDeadline (w : Word) : (s.setPc w).iDeadline = s.iDeadline := rfl
@[simp] theorem State.setPc_tDeadline (w : Word) : (s.setPc w).tDeadline = s.tDeadline := rfl
@[simp] theorem State.setPc_paused (w : Word) : (s.setPc w).paused = s.paused := rfl
@[simp] theorem State.setPc_halt (w : Word) : (s.setPc w).halt = s.halt := rfl
@[simp] theorem State.setPc_faultCause (w : Word) : (s.setPc w).faultCause = s.faultCause := rfl
@[simp] theorem State.setPc_faultPc (w : Word) : (s.setPc w).faultPc = s.faultPc := rfl
@[simp] theorem State.setPc_faultInfo (w : Word) : (s.setPc w).faultInfo = s.faultInfo := rfl
@[simp] theorem State.setPc_params (w : Word) : (s.setPc w).params = s.params := rfl
@[simp] theorem State.setPc_now (w : Word) : (s.setPc w).now = s.now := rfl
@[simp] theorem State.setPc_host (w : Word) : (s.setPc w).host = s.host := rfl
@[simp] theorem State.setPc_rnd (w : Word) : (s.setPc w).rnd = s.rnd := rfl
@[simp] theorem State.setPc_draws (w : Word) : (s.setPc w).draws = s.draws := rfl

/-! ### setStack -/

@[simp] theorem State.setStack_v (j : Fin 16) (w : Word) : (s.setStack j w).v = s.v := rfl
@[simp] theorem State.setStack_i (j : Fin 16) (w : Word) : (s.setStack j w).i = s.i := rfl
@[simp] theorem State.setStack_pc (j : Fin 16) (w : Word) : (s.setStack j w).pc = s.pc := rfl
@[simp] theorem State.setStack_stack (j : Fin 16) (w : Word) : (s.setStack j w).stack = s.stack.set j.val w := rfl
@[simp] theorem State.setStack_sp (j : Fin 16) (w : Word) : (s.setStack j w).sp = s.sp := rfl
@[simp] theorem State.setStack_dt (j : Fin 16) (w : Word) : (s.setStack j w).dt = s.dt := rfl
@[simp] theorem State.setStack_st (j : Fin 16) (w : Word) : (s.setStack j w).st = s.st := rfl
@[simp] theorem State.setStack_mem (j : Fin 16) (w : Word) : (s.setStack j w).mem = s.mem := rfl
@[simp] theorem State.setStack_disp (j : Fin 16) (w : Word) : (s.setStack j w).disp = s.disp := rfl
@[simp] theorem State.setStack_key (j : Fin 16) (w : Word) : (s.setStack j w).key = s.key := rfl
@[simp] theorem State.setStack_waiting (j : Fin 16) (w : Word) : (s.setStack j w).waiting = s.waiting := rfl
@[simp] theorem State.setStack_waitReg (j : Fin 16) (w : Word) : (s.setStack j w).waitReg = s.waitReg := rfl
@[simp] theorem State.setStack_iDeadline (j : Fin 16) (w : Word) : (s.setStack j w).iDeadline = s.iDeadline := rfl
@[simp] theorem State.setStack_tDeadline (j : Fin 16) (w : Word) : (s.setStack j w).tDeadline = s.tDeadline := rfl
@[simp] theorem State.setStack_paused (j : Fin 16) (w : Word) : (s.setStack j w).paused = s.paused := rfl
@[simp] theorem State.setStack_halt (j : Fin 16) (w : Word) : (s.setStack j w).halt = s.halt := rfl
@[simp] theorem State.setStack_faultCause (j : Fin 16) (w : Word) : (s.setStack j w).faultCause = s.faultCause := rfl
@[simp] theorem State.setStack_faultPc (j : Fin 16) (w : Word) : (s.setStack j w).faultPc = s.faultPc := rfl
@[simp] theorem State.setStack_faultInfo (j : Fin 16) (w : Word) : (s.setStack j w).faultInfo = s.faultInfo := rfl
@[simp] theorem State.setStack_params (j : Fin 16) (w : Word) : (s.setStack j w).params = s.params := rfl
@[simp] theorem State.setStack_now (j : Fin 16) (w : Word) : (s.setStack j w).now = s.now := rfl
@[simp] theorem State.setStack_host (j : Fin 16) (w : Word) : (s.setStack j w).host = s.host := rfl
@[simp] theorem State.setStack_rnd (j : Fin 16) (w : Word) : (s.setStack j w).rnd = s.rnd := rfl
@[simp] theorem State.setStack_draws (j : Fin 16) (w : Word) : (s.setStack j w).draws = s.draws := rfl

/-! ### setSp -/

@[simp] theorem State.setSp_v (d : Fin 17) : (s.setSp d).v = s.v := rfl
@[simp] theorem State.setSp_i (d : Fin 17) : (s.setSp d).i = s.i := rfl
@[simp] theorem State.setSp_pc (d : Fin 17) : (s.setSp d).pc = s.pc := rfl
@[simp] theorem State.setSp_stack (d : Fin 17) : (s.setSp d).stack = s.stack := rfl
@[simp] theorem State.setSp_sp (d : Fin 17) : (s.setSp d).sp = d := rfl
@[simp] theorem State.setSp_dt (d : Fin 17) : (s.setSp d).dt = s.dt := rfl
@[simp] theorem State.setSp_st (d : Fin 17) : (s.setSp d).st = s.st := rfl
@[simp] theorem State.setSp_mem (d : Fin 17) : (s.setSp d).mem = s.mem := rfl
@[simp] theorem State.setSp_disp (d : Fin 17) : (s.setSp d).disp = s.disp := rfl
@[simp] theorem State.setSp_key (d : Fin 17) : (s.setSp d).key = s.key := rfl
@[simp] theorem State.setSp_waiting (d : Fin 17) : (s.setSp d).waiting = s.waiting := rfl
@[simp] theorem State.setSp_waitReg (d : Fin 17) : (s.setSp d).waitReg = s.waitReg := rfl
@[simp] theorem State.setSp_iDeadline (d : Fin 17) : (s.setSp d).iDeadline = s.iDeadline := rfl
@[simp] theorem State.setSp_tDeadline (d : Fin 17) : (s.setSp d).tDeadline = s.tDeadline := rfl
@[simp] theorem State.setSp_paused (d : Fin 17) : (s.setSp d).paused = s.paused := rfl
@[simp] theorem State.setSp_halt (d : Fin 17) : (s.setSp d).halt = s.halt := rfl
@[simp] theorem State.setSp_faultCause (d : Fin 17) : (s.setSp d).faultCause = s.faultCause := rfl
@[simp] theorem State.setSp_faultPc (d : Fin 17) : (s.setSp d).faultPc = s.faultPc := rfl
@[simp] theorem State.setSp_faultInfo (d : Fin 17) : (s.setSp d).faultInfo = s.faultInfo := rfl
@[simp] theorem State.setSp_params (d : Fin 17) : (s.setSp d).params = s.params := rfl
@[simp] theorem State.setSp_now (d : Fin 17) : (s.setSp d).now = s.now := rfl
@[simp] theorem State.setSp_host (d : Fin 17) : (s.setSp d).host = s.host := rfl
@[simp] theorem State.setSp_rnd (d : Fin 17) : (s.setSp d).rnd = s.rnd := rfl
@[simp] theorem State.setSp_draws (d : Fin 17) : (s.setSp d).draws = s.draws := rfl

/-! ### setDt -/

@[simp] theorem State.setDt_v (b : Byte) : (s.setDt b).v = s.v := rfl
@[simp] theorem State.setDt_i (b : Byte) : (s.setDt b).i = s.i := rfl
@[simp] theorem State.setDt_pc (b : Byte) : (s.setDt b).pc = s.pc := rfl
@[simp] theorem State.setDt_stack (b : Byte) : (s.setDt b).stack = s.stack := rfl
@[simp] theorem State.setDt_sp (b : Byte) : (s.setDt b).sp = s.sp := rfl
@[simp] theorem State.setDt_dt (b : Byte) : (s.setDt b).dt = b := rfl
@[simp] theorem State.setDt_st (b : Byte) : (s.setDt b).st = s.st := rfl
@[simp] theorem State.setDt_mem (b : Byte) : (s.setDt b).mem = s.mem := rfl
@[simp] theorem State.setDt_disp (b : Byte) : (s.setDt b).disp = s.disp := rfl
@[simp] theorem State.setDt_key (b : Byte) : (s.setDt b).key = s.key := rfl
@[simp] theorem State.setDt_waiting (b : Byte) : (s.setDt b).waiting = s.waiting := rfl
@[simp] theorem State.setDt_waitReg (b : Byte) : (s.setDt b).waitReg = s.waitReg := rfl
@[simp] theorem State.setDt_iDeadline (b : Byte) : (s.setDt b).iDeadline = s.iDeadline := rfl
@[simp] theorem State.setDt_tDeadline (b : Byte) : (s.setDt b).tDeadline = s.tDeadline := rfl
@[simp] theorem State.setDt_paused (b : Byte) : (s.setDt b).paused = s.paused := rfl
@[simp] theorem State.setDt_halt (b : Byte) : (s.setDt b).halt = s.halt := rfl
@[simp] theorem State.setDt_faultCause (b : Byte) : (s.setDt b).faultCause = s.faultCause := rfl
@[simp] theorem State.setDt_faultPc (b : Byte) : (s.setDt b).faultPc = s.faultPc := rfl
@[simp] theorem State.setDt_faultInfo (b : Byte) : (s.setDt b).faultInfo = s.faultInfo := rfl
@[simp] theorem State.setDt_params (b : Byte) : (s.setDt b).params = s.params := rfl
@[simp] theorem State.setDt_now (b : Byte) : (s.setDt b).now = s.now := rfl
@[simp] theorem State.setDt_host (b : Byte) : (s.setDt b).host = s.host := rfl
@[simp] theorem State.setDt_rnd (b : Byte) : (s.setDt b).rnd = s.rnd := rfl
@[simp] theorem State.setDt_draws (b : Byte) : (s.setDt b).draws = s.draws := rfl

/-! ### setSt -/

@[simp] theorem State.setSt_v (b : Byte) : (s.setSt b).v = s.v := rfl
@[simp] theorem State.setSt_i (b : Byte) : (s.setSt b).i = s.i := rfl
@[simp] theorem State.setSt_pc (b : Byte) : (s.setSt b).pc = s.pc := rfl
@[simp] theorem State.setSt_stack (b : Byte) : (s.setSt b).stack = s.stack := rfl
@[simp] theorem State.setSt_sp (b : Byte) : (s.setSt b).sp = s.sp := rfl
@[simp] theorem State.setSt_dt (b : Byte) : (s.setSt b).dt = s.dt := rfl
@[simp] theorem State.setSt_st (b : Byte) : (s.setSt b).st = b := rfl
@[simp] theorem State.setSt_mem (b : Byte) : (s.setSt b).mem = s.mem := rfl
@[simp] theorem State.setSt_disp (b : Byte) : (s.setSt b).disp = s.disp := rfl
@[simp] theorem State.setSt_key (b : Byte) : (s.setSt b).key = s.key := rfl
@[simp] theorem State.setSt_waiting (b : Byte) : (s.setSt b).waiting = s.waiting := rfl
@[simp] theorem State.setSt_waitReg (b : Byte) : (s.setSt b).waitReg = s.waitReg := rfl
@[simp] theorem State.setSt_iDeadline (b : Byte) : (s.setSt b).iDeadline = s.iDeadline := rfl
@[simp] theorem State.setSt_tDeadline (b : Byte) : (s.setSt b).tDeadline = s.tDeadline := rfl
@[simp] theorem State.setSt_paused (b : Byte) : (s.setSt b).paused = s.paused := rfl
@[simp] theorem State.setSt_halt (b : Byte) : (s.setSt b).halt = s.halt := rfl
@[simp] theorem State.setSt_faultCause (b : Byte) : (s.setSt b).faultCause = s.faultCause := rfl
@[simp] theorem State.setSt_faultPc (b : Byte) : (s.setSt b).faultPc = s.faultPc := rfl
@[simp] theorem State.setSt_faultInfo (b : Byte) : (s.setSt b).faultInfo = s.faultInfo := rfl
@[simp] theorem State.setSt_params (b : Byte) : (s.setSt b).params = s.params := rfl
@[simp] theorem State.setSt_now (b : Byte) : (s.setSt b).now = s.now := rfl
@[simp] theorem State.setSt_host (b : Byte) : (s.setSt b).host = s.host := rfl
@[simp] theorem State.setSt_rnd (b : Byte) : (s.setSt b).rnd = s.rnd := rfl
@[simp] theorem State.setSt_draws (b : Byte) : (s.setSt b).draws = s.draws := rfl

/-! ### setMem -/

@[simp] theorem State.setMem_v (m : Memory) : (s.setMem m).v = s.v := rfl
@[simp] theorem State.setMem_i (m : Memory) : (s.setMem m).i = s.i := rfl
@[simp] theorem State.setMem_pc (m : Memory) : (s.setMem m).pc = s.pc := rfl
@[simp] theorem State.setMem_stack (m : Memory) : (s.setMem m).stack = s.stack := rfl
@[simp] theorem State.setMem_sp (m : Memory) : (s.setMem m).sp = s.sp := rfl
@[simp] theorem State.setMem_dt (m : Memory) : (s.setMem m).dt = s.dt := rfl
@[simp] theorem State.setMem_st (m : Memory) : (s.setMem m).st = s.st := rfl
@[simp] theorem State.setMem_mem (m : Memory) : (s.setMem m).mem = m := rfl
@[simp] theorem State.setMem_disp (m : Memory) : (s.setMem m).disp = s.disp := rfl
@[simp] theorem State.setMem_key (m : Memory) : (s.setMem m).key = s.key := rfl
@[simp] theorem State.setMem_waiting (m : Memory) : (s.setMem m).waiting = s.waiting := rfl
@[simp] theorem State.setMem_waitReg (m : Memory) : (s.setMem m).waitReg = s.waitReg := rfl
@[simp] theorem State.setMem_iDeadline (m : Memory) : (s.setMem m).iDeadline = s.iDeadline := rfl
@[simp] theorem State.setMem_tDeadline (m : Memory) : (s.setMem m).tDeadline = s.tDeadline := rfl
@[simp] theorem State.setMem_paused (m : Memory) : (s.setMem m).paused = s.paused := rfl
@[simp] theorem State.setMem_halt (m : Memory) : (s.setMem m).halt = s.halt := rfl
@[simp] theorem State.setMem_faultCause (m : Memory) : (s.setMem m).faultCause = s.faultCause := rfl
@[simp] theorem State.setMem_faultPc (m : Memory) : (s.setMem m).faultPc = s.faultPc := rfl
@[simp] theorem State.setMem_faultInfo (m : Memory) : (s.setMem m).faultInfo = s.faultInfo := rfl
@[simp] theorem State.setMem_params (m : Memory) : (s.setMem m).params = s.params := rfl
@[simp] theorem State.setMem_now (m : Memory) : (s.setMem m).now = s.now := rfl
@[simp] theorem State.setMem_host (m : Memory) : (s.setMem m).host = s.host := rfl
@[simp] theorem State.setMem_rnd (m : Memory) : (s.setMem m).rnd = s.rnd := rfl
@[simp] theorem State.setMem_draws (m : Memory) : (s.setMem m).draws = s.draws := rfl

/-! ### setDisp -/

@[simp] theorem State.setDisp_v (d : Display) : (s.setDisp d).v = s.v := rfl
@[simp] theorem State.setDisp_i (d : Display) : (s.setDisp d).i = s.i := rfl
@[simp] theorem State.setDisp_pc (d : Display) : (s.setDisp d).pc = s.pc := rfl
@[simp] theorem State.setDisp_stack (d : Display) : (s.setDisp d).stack = s.stack := rfl
@[simp] theorem State.setDisp_sp (d : Display) : (s.setDisp d).sp = s.sp := rfl
@[simp] theorem State.setDisp_dt (d : Display) : (s.setDisp d).dt = s.dt := rfl
@[simp] theorem State.setDisp_st (d : Display) : (s.setDisp d).st = s.st := rfl
@[simp] theorem State.setDisp_mem (d : Display) : (s.setDisp d).mem = s.mem := rfl
@[simp] theorem State.setDisp_disp (d : Display) : (s.setDisp d).disp = d := rfl
@[simp] theorem State.setDisp_key (d : Display) : (s.setDisp d).key = s.key := rfl
@[simp] theorem State.setDisp_waiting (d : Display) : (s.setDisp d).waiting = s.waiting := rfl
@[simp] theorem State.setDisp_waitReg (d : Display) : (s.setDisp d).waitReg = s.waitReg := rfl
@[simp] theorem State.setDisp_iDeadline (d : Display) : (s.setDisp d).iDeadline = s.iDeadline := rfl
@[simp] theorem State.setDisp_tDeadline (d : Display) : (s.setDisp d).tDeadline = s.tDeadline := rfl
@[simp] theorem State.setDisp_paused (d : Display) : (s.setDisp d).paused = s.paused := rfl
@[simp] theorem State.setDisp_halt (d : Display) : (s.setDisp d).halt = s.halt := rfl
@[simp] theorem State.setDisp_faultCause (d : Display) : (s.setDisp d).faultCause = s.faultCause := rfl
@[simp] theorem State.setDisp_faultPc (d : Display) : (s.setDisp d).faultPc = s.faultPc := rfl
@[simp] theorem State.setDisp_faultInfo (d : Display) : (s.setDisp d).faultInfo = s.faultInfo := rfl
@[simp] theorem State.setDisp_params (d : Display) : (s.setDisp d).params = s.params := rfl
@[simp] theorem State.setDisp_now (d : Display) : (s.setDisp d).now = s.now := rfl
@[simp] theorem State.setDisp_host (d : Display) : (s.setDisp d).host = s.host := rfl
@[simp] theorem State.setDisp_rnd (d : Display) : (s.setDisp d).rnd = s.rnd := rfl
@[simp] theorem State.setDisp_draws (d : Display) : (s.setDisp d).draws = s.draws := rfl

/-! ### setKey -/

@[simp] theorem State.setKey_v (k : Key) (b : Bool) : (s.setKey k b).v = s.v := rfl
@[simp] theorem State.setKey_i (k : Key) (b : Bool) : (s.setKey k b).i = s.i := rfl
@[simp] theorem State.setKey_pc (k : Key) (b : Bool) : (s.setKey k b).pc = s.pc := rfl
@[simp] theorem State.setKey_stack (k : Key) (b : Bool) : (s.setKey k b).stack = s.stack := rfl
@[simp] theorem State.setKey_sp (k : Key) (b : Bool) : (s.setKey k b).sp = s.sp := rfl
@[simp] theorem State.setKey_dt (k : Key) (b : Bool) : (s.setKey k b).dt = s.dt := rfl
@[simp] theorem State.setKey_st (k : Key) (b : Bool) : (s.setKey k b).st = s.st := rfl
@[simp] theorem State.setKey_mem (k : Key) (b : Bool) : (s.setKey k b).mem = s.mem := rfl
@[simp] theorem State.setKey_disp (k : Key) (b : Bool) : (s.setKey k b).disp = s.disp := rfl
@[simp] theorem State.setKey_key (k : Key) (b : Bool) : (s.setKey k b).key = s.key.set k.val b := rfl
@[simp] theorem State.setKey_waiting (k : Key) (b : Bool) : (s.setKey k b).waiting = s.waiting := rfl
@[simp] theorem State.setKey_waitReg (k : Key) (b : Bool) : (s.setKey k b).waitReg = s.waitReg := rfl
@[simp] theorem State.setKey_iDeadline (k : Key) (b : Bool) : (s.setKey k b).iDeadline = s.iDeadline := rfl
@[simp] theorem State.setKey_tDeadline (k : Key) (b : Bool) : (s.setKey k b).tDeadline = s.tDeadline := rfl
@[simp] theorem State.setKey_paused (k : Key) (b : Bool) : (s.setKey k b).paused = s.paused := rfl
@[simp] theorem State.setKey_halt (k : Key) (b : Bool) : (s.setKey k b).halt = s.halt := rfl
@[simp] theorem State.setKey_faultCause (k : Key) (b : Bool) : (s.setKey k b).faultCause = s.faultCause := rfl
@[simp] theorem State.setKey_faultPc (k : Key) (b : Bool) : (s.setKey k b).faultPc = s.faultPc := rfl
@[simp] theorem State.setKey_faultInfo (k : Key) (b : Bool) : (s.setKey k b).faultInfo = s.faultInfo := rfl
@[simp] theorem State.setKey_params (k : Key) (b : Bool) : (s.setKey k b).params = s.params := rfl
@[simp] theorem State.setKey_now (k : Key) (b : Bool) : (s.setKey k b).now = s.now := rfl
@[simp] theorem State.setKey_host (k : Key) (b : Bool) : (s.setKey k b).host = s.host := rfl
@[simp] theorem State.setKey_rnd (k : Key) (b : Bool) : (s.setKey k b).rnd = s.rnd := rfl
@[simp] theorem State.setKey_draws (k : Key) (b : Bool) : (s.setKey k b).draws = s.draws := rfl

/-! ### setWaiting -/

@[simp] theorem State.setWaiting_v (b : Bool) : (s.setWaiting b).v = s.v := rfl
@[simp] theorem State.setWaiting_i (b : Bool) : (s.setWaiting b).i = s.i := rfl
@[simp] theorem State.setWaiting_pc (b : Bool) : (s.setWaiting b).pc = s.pc := rfl
@[simp] theorem State.setWaiting_stack (b : Bool) : (s.setWaiting b).stack = s.stack := rfl
@[simp] theorem State.setWaiting_sp (b : Bool) : (s.setWaiting b).sp = s.sp := rfl
@[simp] theorem State.setWaiting_dt (b : Bool) : (s.setWaiting b).dt = s.dt := rfl
@[simp] theorem State.setWaiting_st (b : Bool) : (s.setWaiting b).st = s.st := rfl
@[simp] theorem State.setWaiting_mem (b : Bool) : (s.setWaiting b).mem = s.mem := rfl
@[simp] theorem State.setWaiting_disp (b : Bool) : (s.setWaiting b).disp = s.disp := rfl
@[simp] theorem State.setWaiting_key (b : Bool) : (s.setWaiting b).key = s.key := rfl
@[simp] theorem State.setWaiting_waiting (b : Bool) : (s.setWaiting b).waiting = b := rfl
@[simp] theorem State.setWaiting_waitReg (b : Bool) : (s.setWaiting b).waitReg = s.waitReg := rfl
@[simp] theorem State.setWaiting_iDeadline (b : Bool) : (s.setWaiting b).iDeadline = s.iDeadline := rfl
@[simp] theorem State.setWaiting_tDeadline (b : Bool) : (s.setWaiting b).tDeadline = s.tDeadline := rfl
@[simp] theorem State.setWaiting_paused (b : Bool) : (s.setWaiting b).paused = s.paused := rfl
@[simp] theorem State.setWaiting_halt (b : Bool) : (s.setWaiting b).halt = s.halt := rfl
@[simp] theorem State.setWaiting_faultCause (b : Bool) : (s.setWaiting b).faultCause = s.faultCause := rfl
@[simp] theorem State.setWaiting_faultPc (b : Bool) : (s.setWaiting b).faultPc = s.faultPc := rfl
@[simp] theorem State.setWaiting_faultInfo (b : Bool) : (s.setWaiting b).faultInfo = s.faultInfo := rfl
@[simp] theorem State.setWaiting_params (b : Bool) : (s.setWaiting b).params = s.params := rfl
@[simp] theorem State.setWaiting_now (b : Bool) : (s.setWaiting b).now = s.now := rfl
@[simp] theorem State.setWaiting_host (b : Bool) : (s.setWaiting b).host = s.host := rfl
@[simp] theorem State.setWaiting_rnd (b : Bool) : (s.setWaiting b).rnd = s.rnd := rfl
@[simp] theorem State.setWaiting_draws (b : Bool) : (s.setWaiting b).draws = s.draws := rfl

/-! ### setWaitReg -/

@[simp] theorem State.setWaitReg_v (x : Reg) : (s.setWaitReg x).v = s.v := rfl
@[simp] theorem State.setWaitReg_i (x : Reg) : (s.setWaitReg x).i = s.i := rfl
@[simp] theorem State.setWaitReg_pc (x : Reg) : (s.setWaitReg x).pc = s.pc := rfl
@[simp] theorem State.setWaitReg_stack (x : Reg) : (s.setWaitReg x).stack = s.stack := rfl
@[simp] theorem State.setWaitReg_sp (x : Reg) : (s.setWaitReg x).sp = s.sp := rfl
@[simp] theorem State.setWaitReg_dt (x : Reg) : (s.setWaitReg x).dt = s.dt := rfl
@[simp] theorem State.setWaitReg_st (x : Reg) : (s.setWaitReg x).st = s.st := rfl
@[simp] theorem State.setWaitReg_mem (x : Reg) : (s.setWaitReg x).mem = s.mem := rfl
@[simp] theorem State.setWaitReg_disp (x : Reg) : (s.setWaitReg x).disp = s.disp := rfl
@[simp] theorem State.setWaitReg_key (x : Reg) : (s.setWaitReg x).key = s.key := rfl
@[simp] theorem State.setWaitReg_waiting (x : Reg) : (s.setWaitReg x).waiting = s.waiting := rfl
@[simp] theorem State.setWaitReg_waitReg (x : Reg) : (s.setWaitReg x).waitReg = x := rfl
@[simp] theorem State.setWaitReg_iDeadline (x : Reg) : (s.setWaitReg x).iDeadline = s.iDeadline := rfl
@[simp] theorem State.setWaitReg_tDeadline (x : Reg) : (s.setWaitReg x).tDeadline = s.tDeadline := rfl
@[simp] theorem State.setWaitReg_paused (x : Reg) : (s.setWaitReg x).paused = s.paused := rfl
@[simp] theorem State.setWaitReg_halt (x : Reg) : (s.setWaitReg x).halt = s.halt := rfl
@[simp] theorem State.setWaitReg_faultCause (x : Reg) : (s.setWaitReg x).faultCause = s.faultCause := rfl
@[simp] theorem State.setWaitReg_faultPc (x : Reg) : (s.setWaitReg x).faultPc = s.faultPc := rfl
@[simp] theorem State.setWaitReg_faultInfo (x : Reg) : (s.setWaitReg x).faultInfo = s.faultInfo := rfl
@[simp] theorem State.setWaitReg_params (x : Reg) : (s.setWaitReg x).params = s.params := rfl
@[simp] theorem State.setWaitReg_now (x : Reg) : (s.setWaitReg x).now = s.now := rfl
@[simp] theorem State.setWaitReg_host (x : Reg) : (s.setWaitReg x).host = s.host := rfl
@[simp] theorem State.setWaitReg_rnd (x : Reg) : (s.setWaitReg x).rnd = s.rnd := rfl
@[simp] theorem State.setWaitReg_draws (x : Reg) : (s.setWaitReg x).draws = s.draws := rfl

/-! ### setIDeadline -/

@[simp] theorem State.setIDeadline_v (t : Nat) : (s.setIDeadline t).v = s.v := rfl
@[simp] theorem State.setIDeadline_i (t : Nat) : (s.setIDeadline t).i = s.i := rfl
@[simp] theorem State.setIDeadline_pc (t : Nat) : (s.setIDeadline t).pc = s.pc := rfl
@[simp] theorem State.setIDeadline_stack (t : Nat) : (s.setIDeadline t).stack = s.stack := rfl
@[simp] theorem State.setIDeadline_sp (t : Nat) : (s.setIDeadline t).sp = s.sp := rfl
@[simp] theorem State.setIDeadline_dt (t : Nat) : (s.setIDeadline t).dt = s.dt := rfl
@[simp] theorem State.setIDeadline_st (t : Nat) : (s.setIDeadline t).st = s.st := rfl
@[simp] theorem State.setIDeadline_mem (t : Nat) : (s.setIDeadline t).mem = s.mem := rfl
@[simp] theorem State.setIDeadline_disp (t : Nat) : (s.setIDeadline t).disp = s.disp := rfl
@[simp] theorem State.setIDeadline_key (t : Nat) : (s.setIDeadline t).key = s.key := rfl
@[simp] theorem State.setIDeadline_waiting (t : Nat) : (s.setIDeadline t).waiting = s.waiting := rfl
@[simp] theorem State.setIDeadline_waitReg (t : Nat) : (s.setIDeadline t).waitReg = s.waitReg := rfl
@[simp] theorem State.setIDeadline_iDeadline (t : Nat) : (s.setIDeadline t).iDeadline = t := rfl
@[simp] theorem State.setIDeadline_tDeadline (t : Nat) : (s.setIDeadline t).tDeadline = s.tDeadline := rfl
@[simp] theorem State.setIDeadline_paused (t : Nat) : (s.setIDeadline t).paused = s.paused := rfl
@[simp] theorem State.setIDeadline_halt (t : Nat) : (s.setIDeadline t).halt = s.halt := rfl
@[simp] theorem State.setIDeadline_faultCause (t : Nat) : (s.setIDeadline t).faultCause = s.faultCause := rfl
@[simp] theorem State.setIDeadline_faultPc (t : Nat) : (s.setIDeadline t).faultPc = s.faultPc := rfl
@[simp] theorem State.setIDeadline_faultInfo (t : Nat) : (s.setIDeadline t).faultInfo = s.faultInfo := rfl
@[simp] theorem State.setIDeadline_params (t : Nat) : (s.setIDeadline t).params = s.params := rfl
@[simp] theorem State.setIDeadline_now (t : Nat) : (s.setIDeadline t).now = s.now := rfl
@[simp] theorem State.setIDeadline_host (t : Nat) : (s.setIDeadline t).host = s.host := rfl
@[simp] theorem State.setIDeadline_rnd (t : Nat) : (s.setIDeadline t).rnd = s.rnd := rfl
@[simp] theorem State.setIDeadline_draws (t : Nat) : (s.setIDeadline t).draws = s.draws := rfl

/-! ### setTDeadline -/

@[simp] theorem State.setTDeadline_v (t : Nat) : (s.setTDeadline t).v = s.v := rfl
@[simp] theorem State.setTDeadline_i (t : Nat) : (s.setTDeadline t).i = s.i := rfl
@[simp] theorem State.setTDeadline_pc (t : Nat) : (s.setTDeadline t).pc = s.pc := rfl
@[simp] theorem State.setTDeadline_stack (t : Nat) : (s.setTDeadline t).stack = s.stack := rfl
@[simp] theorem State.setTDeadline_sp (t : Nat) : (s.setTDeadline t).sp = s.sp := rfl
@[simp] theorem State.setTDeadline_dt (t : Nat) : (s.setTDeadline t).dt = s.dt := rfl
@[simp] theorem State.setTDeadline_st (t : Nat) : (s.setTDeadline t).st = s.st := rfl
@[simp] theorem State.setTDeadline_mem (t : Nat) : (s.setTDeadline t).mem = s.mem := rfl
@[simp] theorem State.setTDeadline_disp (t : Nat) : (s.setTDeadline t).disp = s.disp := rfl
@[simp] theorem State.setTDeadline_key (t : Nat) : (s.setTDeadline t).key = s.key := rfl
@[simp] theorem State.setTDeadline_waiting (t : Nat) : (s.setTDeadline t).waiting = s.waiting := rfl
@[simp] theorem State.setTDeadline_waitReg (t : Nat) : (s.setTDeadline t).waitReg = s.waitReg := rfl
@[simp] theorem State.setTDeadline_iDeadline (t : Nat) : (s.setTDeadline t).iDeadline = s.iDeadline := rfl
@[simp] theorem State.setTDeadline_tDeadline (t : Nat) : (s.setTDeadline t).tDeadline = t := rfl
@[simp] theorem State.setTDeadline_paused (t : Nat) : (s.setTDeadline t).paused = s.paused := rfl
@[simp] theorem State.setTDeadline_halt (t : Nat) : (s.setTDeadline t).halt = s.halt := rfl
@[simp] theorem State.setTDeadline_faultCause (t : Nat) : (s.setTDeadline t).faultCause = s.faultCause := rfl
@[simp] theorem State.setTDeadline_faultPc (t : Nat) : (s.setTDeadline t).faultPc = s.faultPc := rfl
@[simp] theorem State.setTDeadline_faultInfo (t : Nat) : (s.setTDeadline t).faultInfo = s.faultInfo := rfl
@[simp] theorem State.setTDeadline_params (t : Nat) : (s.setTDeadline t).params = s.params := rfl
@[simp] theorem State.setTDeadline_now (t : Nat) : (s.setTDeadline t).now = s.now := rfl
@[simp] theorem State.setTDeadline_host (t : Nat) : (s.setTDeadline t).host = s.host := rfl
@[simp] theorem State.setTDeadline_rnd (t : Nat) : (s.setTDeadline t).rnd = s.rnd := rfl
@[simp] theorem State.setTDeadline_draws (t : Nat) : (s.setTDeadline t).draws = s.draws := rfl

/-! ### setPaused -/

@[simp] theorem State.setPaused_v (b : Bool) : (s.setPaused b).v = s.v := rfl
@[simp] theorem State.setPaused_i (b : Bool) : (s.setPaused b).i = s.i := rfl
@[simp] theorem State.setPaused_pc (b : Bool) : (s.setPaused b).pc = s.pc := rfl
@[simp] theorem State.setPaused_stack (b : Bool) : (s.setPaused b).stack = s.stack := rfl
@[simp] theorem State.setPaused_sp (b : Bool) : (s.setPaused b).sp = s.sp := rfl
@[simp] theorem State.setPaused_dt (b : Bool) : (s.setPaused b).dt = s.dt := rfl
@[simp] theorem State.setPaused_st (b : Bool) : (s.setPaused b).st = s.st := rfl
@[simp] theorem State.setPaused_mem (b : Bool) : (s.setPaused b).mem = s.mem := rfl
@[simp] theorem State.setPaused_disp (b : Bool) : (s.setPaused b).disp = s.disp := rfl
@[simp] theorem State.setPaused_key (b : Bool) : (s.setPaused b).key = s.key := rfl
@[simp] theorem State.setPaused_waiting (b : Bool) : (s.setPaused b).waiting = s.waiting := rfl
@[simp] theorem State.setPaused_waitReg (b : Bool) : (s.setPaused b).waitReg = s.waitReg := rfl
@[simp] theorem State.setPaused_iDeadline (b : Bool) : (s.setPaused b).iDeadline = s.iDeadline := rfl
@[simp] theorem State.setPaused_tDeadline (b : Bool) : (s.setPaused b).tDeadline = s.tDeadline := rfl
@[simp] theorem State.setPaused_paused (b : Bool) : (s.setPaused b).paused = b := rfl
@[simp] theorem State.setPaused_halt (b : Bool) : (s.setPaused b).halt = s.halt := rfl
@[simp] theorem State.setPaused_faultCause (b : Bool) : (s.setPaused b).faultCause = s.faultCause := rfl
@[simp] theorem State.setPaused_faultPc (b : Bool) : (s.setPaused b).faultPc = s.faultPc := rfl
@[simp] theorem State.setPaused_faultInfo (b : Bool) : (s.setPaused b).faultInfo = s.faultInfo := rfl
@[simp] theorem State.setPaused_params (b : Bool) : (s.setPaused b).params = s.params := rfl
@[simp] theorem State.setPaused_now (b : Bool) : (s.setPaused b).now = s.now := rfl
@[simp] theorem State.setPaused_host (b : Bool) : (s.setPaused b).host = s.host := rfl
@[simp] theorem State.setPaused_rnd (b : Bool) : (s.setPaused b).rnd = s.rnd := rfl
@[simp] theorem State.setPaused_draws (b : Bool) : (s.setPaused b).draws = s.draws := rfl

/-! ### setHalt -/

@[simp] theorem State.setHalt_v (b : Bool) : (s.setHalt b).v = s.v := rfl
@[simp] theorem State.setHalt_i (b : Bool) : (s.setHalt b).i = s.i := rfl
@[simp] theorem State.setHalt_pc (b : Bool) : (s.setHalt b).pc = s.pc := rfl
@[simp] theorem State.setHalt_stack (b : Bool) : (s.setHalt b).stack = s.stack := rfl
@[simp] theorem State.setHalt_sp (b : Bool) : (s.setHalt b).sp = s.sp := rfl
@[simp] theorem State.setHalt_dt (b : Bool) : (s.setHalt b).dt = s.dt := rfl
@[simp] theorem State.setHalt_st (b : Bool) : (s.setHalt b).st = s.st := rfl
@[simp] theorem State.setHalt_mem (b : Bool) : (s.setHalt b).mem = s.mem := rfl
@[simp] theorem State.setHalt_disp (b : Bool) : (s.setHalt b).disp = s.disp := rfl
@[simp] theorem State.setHalt_key (b : Bool) : (s.setHalt b).key = s.key := rfl
@[simp] theorem State.setHalt_waiting (b : Bool) : (s.setHalt b).waiting = s.waiting := rfl
@[simp] theorem State.setHalt_waitReg (b : Bool) : (s.setHalt b).waitReg = s.waitReg := rfl
@[simp] theorem State.setHalt_iDeadline (b : Bool) : (s.setHalt b).iDeadline = s.iDeadline := rfl
@[simp] theorem State.setHalt_tDeadline (b : Bool) : (s.setHalt b).tDeadline = s.tDeadline := rfl
@[simp] theorem State.setHalt_paused (b : Bool) : (s.setHalt b).paused = s.paused := rfl
@[simp] theorem State.setHalt_halt (b : Bool) : (s.setHalt b).halt = b := rfl
@[simp] theorem State.setHalt_faultCause (b : Bool) : (s.setHalt b).faultCause = s.faultCause := rfl
@[simp] theorem State.setHalt_faultPc (b : Bool) : (s.setHalt b).faultPc = s.faultPc := rfl
@[simp] theorem State.setHalt_faultInfo (b : Bool) : (s.setHalt b).faultInfo = s.faultInfo := rfl
@[simp] theorem State.setHalt_params (b : Bool) : (s.setHalt b).params = s.params := rfl
@[simp] theorem State.setHalt_now (b : Bool) : (s.setHalt b).now = s.now := rfl
@[simp] theorem State.setHalt_host (b : Bool) : (s.setHalt b).host = s.host := rfl
@[simp] theorem State.setHalt_rnd (b : Bool) : (s.setHalt b).rnd = s.rnd := rfl
@[simp] theorem State.setHalt_draws (b : Bool) : (s.setHalt b).draws = s.draws := rfl

/-! ### setFault -/

@[simp] theorem State.setFault_v (c : FaultCause) (a w : Word) : (s.setFault c a w).v = s.v := rfl
@[simp] theorem State.setFault_i (c : FaultCause) (a w : Word) : (s.setFault c a w).i = s.i := rfl
@[simp] theorem State.setFault_pc (c : FaultCause) (a w : Word) : (s.setFault c a w).pc = s.pc := rfl
@[simp] theorem State.setFault_stack (c : FaultCause) (a w : Word) : (s.setFault c a w).stack = s.stack := rfl
@[simp] theorem State.setFault_sp (c : FaultCause) (a w : Word) : (s.setFault c a w).sp = s.sp := rfl
@[simp] theorem State.setFault_dt (c : FaultCause) (a w : Word) : (s.setFault c a w).dt = s.dt := rfl
@[simp] theorem State.setFault_st (c : FaultCause) (a w : Word) : (s.setFault c a w).st = s.st := rfl
@[simp] theorem State.setFault_mem (c : FaultCause) (a w : Word) : (s.setFault c a w).mem = s.mem := rfl
@[simp] theorem State.setFault_disp (c : FaultCause) (a w : Word) : (s.setFault c a w).disp = s.disp := rfl
@[simp] theorem State.setFault_key (c : FaultCause) (a w : Word) : (s.setFault c a w).key = s.key := rfl
@[simp] theorem State.setFault_waiting (c : FaultCause) (a w : Word) : (s.setFault c a w).waiting = s.waiting := rfl
@[simp] theorem State.setFault_waitReg (c : FaultCause) (a w : Word) : (s.setFault c a w).waitReg = s.waitReg := rfl
@[simp] theorem State.setFault_iDeadline (c : FaultCause) (a w : Word) : (s.setFault c a w).iDeadline = s.iDeadline := rfl
@[simp] theorem State.setFault_tDeadline (c : FaultCause) (a w : Word) : (s.setFault c a w).tDeadline = s.tDeadline := rfl
@[simp] theorem State.setFault_paused (c : FaultCause) (a w : Word) : (s.setFault c a w).paused = s.paused := rfl
@[simp] theorem State.setFault_halt (c : FaultCause) (a w : Word) : (s.setFault c a w).halt = s.halt := rfl
@[simp] theorem State.setFault_faultCause (c : FaultCause) (a w : Word) : (s.setFault c a w).faultCause = c := rfl
@[simp] theorem State.setFault_faultPc (c : FaultCause) (a w : Word) : (s.setFault c a w).faultPc = a := rfl
@[simp] theorem State.setFault_faultInfo (c : FaultCause) (a w : Word) : (s.setFault c a w).faultInfo = w := rfl
@[simp] theorem State.setFault_params (c : FaultCause) (a w : Word) : (s.setFault c a w).params = s.params := rfl
@[simp] theorem State.setFault_now (c : FaultCause) (a w : Word) : (s.setFault c a w).now = s.now := rfl
@[simp] theorem State.setFault_host (c : FaultCause) (a w : Word) : (s.setFault c a w).host = s.host := rfl
@[simp] theorem State.setFault_rnd (c : FaultCause) (a w : Word) : (s.setFault c a w).rnd = s.rnd := rfl
@[simp] theorem State.setFault_draws (c : FaultCause) (a w : Word) : (s.setFault c a w).draws = s.draws := rfl

/-! ### setNow -/

@[simp] theorem State.setNow_v (t : Nat) : (s.setNow t).v = s.v := rfl
@[simp] theorem State.setNow_i (t : Nat) : (s.setNow t).i = s.i := rfl
@[simp] theorem State.setNow_pc (t : Nat) : (s.setNow t).pc = s.pc := rfl
@[simp] theorem State.setNow_stack (t : Nat) : (s.setNow t).stack = s.stack := rfl
@[simp] theorem State.setNow_sp (t : Nat) : (s.setNow t).sp = s.sp := rfl
@[simp] theorem State.setNow_dt (t : Nat) : (s.setNow t).dt = s.dt := rfl
@[simp] theorem State.setNow_st (t : Nat) : (s.setNow t).st = s.st := rfl
@[simp] theorem State.setNow_mem (t : Nat) : (s.setNow t).mem = s.mem := rfl
@[simp] theorem State.setNow_disp (t : Nat) : (s.setNow t).disp = s.disp := rfl
@[simp] theorem State.setNow_key (t : Nat) : (s.setNow t).key = s.key := rfl
@[simp] theorem State.setNow_waiting (t : Nat) : (s.setNow t).waiting = s.waiting := rfl
@[simp] theorem State.setNow_waitReg (t : Nat) : (s.setNow t).waitReg = s.waitReg := rfl
@[simp] theorem State.setNow_iDeadline (t : Nat) : (s.setNow t).iDeadline = s.iDeadline := rfl
@[simp] theorem State.setNow_tDeadline (t : Nat) : (s.setNow t).tDeadline = s.tDeadline := rfl
@[simp] theorem State.setNow_paused (t : Nat) : (s.setNow t).paused = s.paused := rfl
@[simp] theorem State.setNow_halt (t : Nat) : (s.setNow t).halt = s.halt := rfl
@[simp] theorem State.setNow_faultCause (t : Nat) : (s.setNow t).faultCause = s.faultCause := rfl
@[simp] theorem State.setNow_faultPc (t : Nat) : (s.setNow t).faultPc = s.faultPc := rfl
@[simp] theorem State.setNow_faultInfo (t : Nat) : (s.setNow t).faultInfo = s.faultInfo := rfl
@[simp] theorem State.setNow_params (t : Nat) : (s.setNow t).params = s.params := rfl
@[simp] theorem State.setNow_now (t : Nat) : (s.setNow t).now = t := rfl
@[simp] theorem State.setNow_host (t : Nat) : (s.setNow t).host = s.host := rfl
@[simp] theorem State.setNow_rnd (t : Nat) : (s.setNow t).rnd = s.rnd := rfl
@[simp] theorem State.setNow_draws (t : Nat) : (s.setNow t).draws = s.draws := rfl

/-! ### setHost -/

@[simp] theorem State.setHost_v (h : List HostInput) : (s.setHost h).v = s.v := rfl
@[simp] theorem State.setHost_i (h : List HostInput) : (s.setHost h).i = s.i := rfl
@[simp] theorem State.setHost_pc (h : List HostInput) : (s.setHost h).pc = s.pc := rfl
@[simp] theorem State.setHost_stack (h : List HostInput) : (s.setHost h).stack = s.stack := rfl
@[simp] theorem State.setHost_sp (h : List HostInput) : (s.setHost h).sp = s.sp := rfl
@[simp] theorem State.setHost_dt (h : List HostInput) : (s.setHost h).dt = s.dt := rfl
@[simp] theorem State.setHost_st (h : List HostInput) : (s.setHost h).st = s.st := rfl
@[simp] theorem State.setHost_mem (h : List HostInput) : (s.setHost h).mem = s.mem := rfl
@[simp] theorem State.setHost_disp (h : List HostInput) : (s.setHost h).disp = s.disp := rfl
@[simp] theorem State.setHost_key (h : List HostInput) : (s.setHost h).key = s.key := rfl
@[simp] theorem State.setHost_waiting (h : List HostInput) : (s.setHost h).waiting = s.waiting := rfl
@[simp] theorem State.setHost_waitReg (h : List HostInput) : (s.setHost h).waitReg = s.waitReg := rfl
@[simp] theorem State.setHost_iDeadline (h : List HostInput) : (s.setHost h).iDeadline = s.iDeadline := rfl
@[simp] theorem State.setHost_tDeadline (h : List HostInput) : (s.setHost h).tDeadline = s.tDeadline := rfl
@[simp] theorem State.setHost_paused (h : List HostInput) : (s.setHost h).paused = s.paused := rfl
@[simp] theorem State.setHost_halt (h : List HostInput) : (s.setHost h).halt = s.halt := rfl
@[simp] theorem State.setHost_faultCause (h : List HostInput) : (s.setHost h).faultCause = s.faultCause := rfl
@[simp] theorem State.setHost_faultPc (h : List HostInput) : (s.setHost h).faultPc = s.faultPc := rfl
@[simp] theorem State.setHost_faultInfo (h : List HostInput) : (s.setHost h).faultInfo = s.faultInfo := rfl
@[simp] theorem State.setHost_params (h : List HostInput) : (s.setHost h).params = s.params := rfl
@[simp] theorem State.setHost_now (h : List HostInput) : (s.setHost h).now = s.now := rfl
@[simp] theorem State.setHost_host (h : List HostInput) : (s.setHost h).host = h := rfl
@[simp] theorem State.setHost_rnd (h : List HostInput) : (s.setHost h).rnd = s.rnd := rfl
@[simp] theorem State.setHost_draws (h : List HostInput) : (s.setHost h).draws = s.draws := rfl

/-! ### setRnd -/

@[simp] theorem State.setRnd_v (bs : List Byte) (n : Nat) : (s.setRnd bs n).v = s.v := rfl
@[simp] theorem State.setRnd_i (bs : List Byte) (n : Nat) : (s.setRnd bs n).i = s.i := rfl
@[simp] theorem State.setRnd_pc (bs : List Byte) (n : Nat) : (s.setRnd bs n).pc = s.pc := rfl
@[simp] theorem State.setRnd_stack (bs : List Byte) (n : Nat) : (s.setRnd bs n).stack = s.stack := rfl
@[simp] theorem State.setRnd_sp (bs : List Byte) (n : Nat) : (s.setRnd bs n).sp = s.sp := rfl
@[simp] theorem State.setRnd_dt (bs : List Byte) (n : Nat) : (s.setRnd bs n).dt = s.dt := rfl
@[simp] theorem State.setRnd_st (bs : List Byte) (n : Nat) : (s.setRnd bs n).st = s.st := rfl
@[simp] theorem State.setRnd_mem (bs : List Byte) (n : Nat) : (s.setRnd bs n).mem = s.mem := rfl
@[simp] theorem State.setRnd_disp (bs : List Byte) (n : Nat) : (s.setRnd bs n).disp = s.disp := rfl
@[simp] theorem State.setRnd_key (bs : List Byte) (n : Nat) : (s.setRnd bs n).key = s.key := rfl
@[simp] theorem State.setRnd_waiting (bs : List Byte) (n : Nat) : (s.setRnd bs n).waiting = s.waiting := rfl
@[simp] theorem State.setRnd_waitReg (bs : List Byte) (n : Nat) : (s.setRnd bs n).waitReg = s.waitReg := rfl
@[simp] theorem State.setRnd_iDeadline (bs : List Byte) (n : Nat) : (s.setRnd bs n).iDeadline = s.iDeadline := rfl
@[simp] theorem State.setRnd_tDeadline (bs : List Byte) (n : Nat) : (s.setRnd bs n).tDeadline = s.tDeadline := rfl
@[simp] theorem State.setRnd_paused (bs : List Byte) (n : Nat) : (s.setRnd bs n).paused = s.paused := rfl
@[simp] theorem State.setRnd_halt (bs : List Byte) (n : Nat) : (s.setRnd bs n).halt = s.halt := rfl
@[simp] theorem State.setRnd_faultCause (bs : List Byte) (n : Nat) : (s.setRnd bs n).faultCause = s.faultCause := rfl
@[simp] theorem State.setRnd_faultPc (bs : List Byte) (n : Nat) : (s.setRnd bs n).faultPc = s.faultPc := rfl
@[simp] theorem State.setRnd_faultInfo (bs : List Byte) (n : Nat) : (s.setRnd bs n).faultInfo = s.faultInfo := rfl
@[simp] theorem State.setRnd_params (bs : List Byte) (n : Nat) : (s.setRnd bs n).params = s.params := rfl
@[simp] theorem State.setRnd_now (bs : List Byte) (n : Nat) : (s.setRnd bs n).now = s.now := rfl
@[simp] theorem State.setRnd_host (bs : List Byte) (n : Nat) : (s.setRnd bs n).host = s.host := rfl
@[simp] theorem State.setRnd_rnd (bs : List Byte) (n : Nat) : (s.setRnd bs n).rnd = bs := rfl
@[simp] theorem State.setRnd_draws (bs : List Byte) (n : Nat) : (s.setRnd bs n).draws = n := rfl

end Sys2Proof.Machine
end

