-- ==== Sys2Proof/Laws/Memory.lean ====
section
/-! SUPPORT. Memory: a read after a write, and the canonical form that every memory operation keeps. -/

namespace Sys2Proof.Machine

/-! ## Read after write -/

theorem memRead_memPut (m : Memory) (a b : Nat) (w : Byte) (h : memWfFrom 0 m = true) :
    memRead (memPut a w m) b = if b = a then w else memRead m b := by
  suffices H : ∀ (m : Memory) (lo : Nat), memWfFrom lo m = true →
      memRead (memPut a w m) b = if b = a then w else memRead m b from H m 0 h
  intro m
  induction m with
  | nil => intro lo _; simp only [memPut, memRead]
  | cons c m ih =>
    obtain ⟨c, u⟩ := c
    intro lo hm
    simp only [memWfFrom, Bool.and_eq_true] at hm
    simp only [memPut]
    split
    · simp only [memRead]
    · split
      · rename_i hac
        subst hac
        simp only [memRead]
        split <;> rfl
      · simp only [memRead, ih _ hm.2]
        split
        · rename_i hbc
          subst hbc
          have : ¬ b = a := fun e => by simp_all
          simp [this]
        · rfl

/-- Below every listed address memory reads as the default. -/
theorem memRead_below (m : Memory) (lo a : Nat) (h : memWfFrom lo m = true) (ha : a < lo) : memRead m a = memDefault a := by
  induction m generalizing lo with
  | nil => rfl
  | cons c m ih =>
    obtain ⟨c, u⟩ := c
    simp only [memWfFrom, Bool.and_eq_true, decide_eq_true_eq] at h
    have hne : ¬ a = c := by omega
    simp only [memRead, hne, if_false]
    exact ih (c + 1) h.2 (by omega)

theorem memRead_memErase (m : Memory) (a b : Nat) (h : memWfFrom 0 m = true) :
    memRead (memErase a m) b = if b = a then memDefault a else memRead m b := by
  suffices H : ∀ (m : Memory) (lo : Nat), memWfFrom lo m = true →
      memRead (memErase a m) b = if b = a then memDefault a else memRead m b from H m 0 h
  intro m
  induction m with
  | nil =>
    intro lo _
    simp only [memErase, memRead]
    split <;> simp_all
  | cons c m ih =>
    obtain ⟨c, u⟩ := c
    intro lo hm
    simp only [memWfFrom, Bool.and_eq_true, decide_eq_true_eq] at hm
    simp only [memErase]
    split
    · rename_i hac
      subst hac
      simp only [memRead]
      split
      · rename_i hb
        subst hb
        exact memRead_below m _ _ hm.2 (Nat.lt_succ_self _)
      · rfl
    · simp only [memRead, ih _ hm.2]
      split
      · rename_i hbc
        subst hbc
        have : ¬ b = a := fun e => by simp_all
        simp [this]
      · rfl

/-- A read after a write: the byte written at its address, every other byte as before (R39). -/
theorem memRead_memWrite (m : Memory) (a b : Nat) (w : Byte) (h : Memory.wf m = true) :
    memRead (memWrite m a w) b = if b = a then w else memRead m b := by
  unfold memWrite
  split
  · rename_i hw
    rw [memRead_memErase m a b h, hw]
  · exact memRead_memPut m a b w h

/-! ## The canonical form -/

theorem memWfFrom_mono (m : Memory) (lo lo' : Nat) (h : memWfFrom lo m = true) (hl : lo' ≤ lo) :
    memWfFrom lo' m = true := by
  cases m with
  | nil => rfl
  | cons c m =>
    obtain ⟨c, u⟩ := c
    simp only [memWfFrom, Bool.and_eq_true, decide_eq_true_eq] at h ⊢
    exact ⟨⟨⟨by omega, h.1.1.2⟩, h.1.2⟩, h.2⟩

theorem memWfFrom_memPut (m : Memory) (lo a : Nat) (w : Byte) (h : memWfFrom lo m = true) (hlo : lo ≤ a)
    (ha : a < Config.memSize) (hw : w ≠ memDefault a) : memWfFrom lo (memPut a w m) = true := by
  induction m generalizing lo with
  | nil => simp [memPut, memWfFrom, hlo, ha, hw]
  | cons c m ih =>
    obtain ⟨c, u⟩ := c
    simp only [memWfFrom, Bool.and_eq_true, decide_eq_true_eq, bne_iff_ne] at h
    simp only [memPut]
    split
    · simp only [memWfFrom, Bool.and_eq_true, decide_eq_true_eq, bne_iff_ne]
      exact ⟨⟨⟨hlo, ha⟩, hw⟩, ⟨⟨by omega, h.1.1.2⟩, h.1.2⟩, h.2⟩
    · split
      · rename_i hac
        subst hac
        simp only [memWfFrom, Bool.and_eq_true, decide_eq_true_eq, bne_iff_ne]
        exact ⟨⟨⟨hlo, ha⟩, hw⟩, h.2⟩
      · simp only [memWfFrom, Bool.and_eq_true, decide_eq_true_eq, bne_iff_ne]
        exact ⟨h.1, ih (c + 1) h.2 (by omega)⟩

theorem memWfFrom_memErase (m : Memory) (lo a : Nat) (h : memWfFrom lo m = true) :
    memWfFrom lo (memErase a m) = true := by
  induction m generalizing lo with
  | nil => rfl
  | cons c m ih =>
    obtain ⟨c, u⟩ := c
    simp only [memWfFrom, Bool.and_eq_true, decide_eq_true_eq, bne_iff_ne] at h
    simp only [memErase]
    split
    · exact memWfFrom_mono m _ _ h.2 (by omega)
    · simp only [memWfFrom, Bool.and_eq_true, decide_eq_true_eq, bne_iff_ne]
      exact ⟨h.1, ih (c + 1) h.2⟩

/-- A write keeps the canonical form. -/
theorem memWrite_wf (m : Memory) (a : Nat) (w : Byte) (h : Memory.wf m = true) (ha : a < Config.memSize) :
    Memory.wf (memWrite m a w) = true := by
  unfold memWrite
  split
  · exact memWfFrom_memErase m 0 a h
  · exact memWfFrom_memPut m 0 a w h (Nat.zero_le a) ha ‹_›

theorem memIndex_lt (a : Nat) : memIndex a < Config.memSize := Nat.mod_lt _ (by decide)

/-- An address below 4096 is its own index (R43). -/
theorem memIndex_of_lt (a : Nat) (h : a < Config.memSize) : memIndex a = a := Nat.mod_eq_of_lt h

theorem storeByte_wf (s : State) (a : Nat) (b : Byte) (h : Memory.wf s.mem = true) :
    Memory.wf (s.storeByte a b).mem = true :=
  memWrite_wf _ _ _ h (memIndex_lt a)

/-- A load after a byte store. -/
theorem memRead_storeByte (s : State) (a c : Nat) (b : Byte) (h : Memory.wf s.mem = true) :
    memRead (s.storeByte a b).mem c = if c = memIndex a then b else memRead s.mem c :=
  memRead_memWrite _ _ _ _ h

theorem reset_mem_wf : Memory.wf State.reset.mem = true := rfl

end Sys2Proof.Machine
end

