-- ==== Sys2Proof/Laws/Registers.lean ====
section
/-! SUPPORT. Registers, the program counter, the call stack, the flags' two writes and the fatal fault: one lemma per
shared operation that says all it can do. -/

namespace Sys2Proof.Machine

variable (s : State)

/-! ## Registers -/

@[simp] theorem State.reg_setReg (x y : Reg) (b : Byte) : (s.setReg x b).reg y = if y = x then b else s.reg y := by
  simp only [State.reg, State.setReg_v, Vector.getElem_set]
  by_cases h : y = x
  · subst h; simp
  · have : ¬ x.val = y.val := fun e => h (Fin.ext e.symm)
    simp [h, this]

/-- The registers depend on V alone. -/
theorem State.reg_congr {s t : State} (h : t.v = s.v) (x : Reg) : t.reg x = s.reg x := by
  simp only [State.reg, h]

@[simp] theorem State.reg_setI (w : Word) (x : Reg) : (s.setI w).reg x = s.reg x := rfl
@[simp] theorem State.reg_setPc (w : Word) (x : Reg) : (s.setPc w).reg x = s.reg x := rfl
@[simp] theorem State.reg_setMem (m : Memory) (x : Reg) : (s.setMem m).reg x = s.reg x := rfl
@[simp] theorem State.reg_setDisp (d : Display) (x : Reg) : (s.setDisp d).reg x = s.reg x := rfl
@[simp] theorem State.reg_setKey (k : Key) (b : Bool) (x : Reg) : (s.setKey k b).reg x = s.reg x := rfl
@[simp] theorem State.reg_setFault (c : FaultCause) (a w : Word) (x : Reg) : (s.setFault c a w).reg x = s.reg x := rfl
@[simp] theorem State.reg_setRnd (bs : List Byte) (n : Nat) (x : Reg) : (s.setRnd bs n).reg x = s.reg x := rfl
@[simp] theorem State.reg_storeByte (a : Nat) (b : Byte) (x : Reg) : (s.storeByte a b).reg x = s.reg x := rfl

@[simp] theorem State.keyDown_setKey (k j : Key) (b : Bool) :
    (s.setKey k b).keyDown j = if j = k then b else s.keyDown j := by
  simp only [State.keyDown, State.setKey_key, Vector.getElem_set]
  by_cases h : j = k
  · subst h; simp
  · have : ¬ k.val = j.val := fun e => h (Fin.ext e.symm)
    simp [h, this]

/-! ## The program counter -/

/-- The sequential successor writes PC alone (R70). -/
theorem State.advance_eq : s.advance = s.setPc (s.pc + 2#16) := rfl

/-- A skip writes PC alone (R70). -/
theorem State.skipIf_eq (c : Bool) : s.skipIf c = s.setPc (if c then s.pc + 4#16 else s.pc + 2#16) := by
  cases c <;> rfl

/-! ## The fatal fault -/

/-- Raising a fault writes the three fault registers alone (R118). -/
theorem State.raise_eq (c : FaultCause) (info : Word) : s.raise c info = s.setFault c s.pc info := rfl

/-- An access is done or raises AddressFault; nothing else (R32, R115). -/
theorem State.accessing_cases (base n : Nat) (done : State) :
    (s.outOfRange base n = none ∧ s.accessing base n done = done) ∨
    (∃ a, s.outOfRange base n = some a ∧ s.accessing base n done = s.raise .addressFault (BitVec.ofNat 16 a)) := by
  unfold State.accessing
  cases h : s.outOfRange base n with
  | none => exact .inl ⟨rfl, rfl⟩
  | some a => exact .inr ⟨a, rfl, rfl⟩

/-- The bounds check passes where the policy wraps, where no byte is touched, or where the last byte is below 4096; else
it gives the lowest byte address of 4096 or more (R32). -/
theorem State.outOfRange_eq (base n : Nat) :
    s.outOfRange base n =
      if s.params.addrPolicy = .wrap4096 ∨ n = 0 ∨ base + n ≤ Config.memSize then none
      else some (max base Config.memSize) := by
  unfold State.outOfRange
  cases s.params.addrPolicy with
  | wrap4096 => simp
  | fault =>
    by_cases hn : n = 0
    · simp [hn]
    · by_cases hb : base + n ≤ Config.memSize
      · simp [hn, hb, Nat.not_lt.mpr hb]
      · simp [hn, hb, Nat.lt_of_not_le hb]

/-! ## The call stack -/

/-- The push answers exactly where the stack is not full, and then it writes entry SP and SP (R64). -/
theorem State.push?_eq_some (w : Word) (t : State) (h : s.push? w = some t) :
    ∃ hs : s.sp.val < 16, t.sp.val = s.sp.val + 1 ∧
      t = (s.setStack ⟨s.sp.val, hs⟩ w).setSp ⟨s.sp.val + 1, by omega⟩ := by
  unfold State.push? at h
  split at h
  · rename_i hs
    cases h
    exact ⟨hs, rfl, rfl⟩
  · cases h

theorem State.push?_eq_none (w : Word) : s.push? w = none ↔ s.sp = 16 := by
  unfold State.push?
  have := s.sp.isLt
  split
  · rename_i hs
    constructor
    · intro h; cases h
    · intro h; rw [h] at hs; exact absurd hs (by decide)
  · constructor
    · intro _; exact Fin.ext (show s.sp.val = 16 by omega)
    · intro _; rfl

/-- The pop answers exactly where the stack is not empty, and then it writes SP alone (R62). -/
theorem State.pop?_eq_some (w : Word) (t : State) (h : s.pop? = some (w, t)) :
    ∃ hs : s.sp.val - 1 < 16, 0 < s.sp.val ∧ w = s.stack[s.sp.val - 1] ∧ t = s.setSp ⟨s.sp.val - 1, by omega⟩ := by
  unfold State.pop? at h
  have hl := s.sp.isLt
  split at h
  · rename_i hs
    injection h with h
    injection h with h1 h2
    exact ⟨by omega, by omega, h1.symm, h2.symm⟩
  · cases h

theorem State.pop?_eq_none : s.pop? = none ↔ s.sp = 0 := by
  unfold State.pop?
  split
  · rename_i hs
    constructor
    · intro h; cases h
    · intro h; rw [h] at hs; exact absurd rfl hs
  · rename_i hs
    constructor
    · intro _; exact Fin.ext (by simpa using hs)
    · intro _; rfl

/-! ## Result and flag -/

/-- The two writes of a flag-writing instruction touch V[x] and VF alone; VF ends as the flag, but for x = 15 under
`VF_ORDER = flag_first` (R84). -/
theorem State.reg_writeResultAndFlag (x y : Reg) (r f : Byte) :
    (s.writeResultAndFlag x r f).reg y =
      if y = vf ∧ ¬ (x = vf ∧ s.params.vfOrder = .flagFirst) then f else if y = x then r else s.reg y := by
  unfold State.writeResultAndFlag
  cases s.params.vfOrder with
  | flagLast => simp
  | flagFirst =>
    simp only [State.reg_setReg]
    by_cases hy : y = x <;> by_cases hx : x = vf <;> by_cases hv : y = vf <;> simp_all

/-- The two writes touch V alone. -/
theorem State.writeResultAndFlag_eq (x : Reg) (r f : Byte) :
    s.writeResultAndFlag x r f = { s with v := (s.writeResultAndFlag x r f).v } := by
  unfold State.writeResultAndFlag
  cases s.params.vfOrder <;> rfl

/-! ## The random port -/

/-- A draw touches the model's record of the port alone (R134). -/
theorem State.afterDraw_eq : s.afterDraw = s.setRnd s.afterDraw.rnd s.afterDraw.draws := by
  unfold State.afterDraw
  split <;> rfl

/-! ## Block transfers -/

/-- A block load writes the listed registers, each from its own byte, and nothing else (R92). -/
theorem reg_loadRegs (base : Nat) (ks : List Reg) (s : State) (y : Reg) :
    (loadRegs base ks s).reg y = if y ∈ ks then s.loadByte (base + y.val) else s.reg y := by
  induction ks generalizing s with
  | nil => simp [loadRegs]
  | cons k ks ih =>
    have hl : ∀ a, (s.setReg k (s.loadByte (base + k.val))).loadByte a = s.loadByte a := fun _ => rfl
    rw [loadRegs, ih, hl, State.reg_setReg]
    by_cases h1 : y ∈ ks
    · simp [h1]
    · by_cases h2 : y = k
      · subst h2; simp [h1]
      · simp [h1, h2]

theorem loadRegs_eq (base : Nat) (ks : List Reg) (s : State) : loadRegs base ks s = { s with v := (loadRegs base ks s).v } := by
  induction ks generalizing s with
  | nil => rfl
  | cons k ks ih => rw [loadRegs, ih]; rfl

/-- A block store writes memory alone (R91). -/
theorem storeRegs_eq (base : Nat) (ks : List Reg) (s : State) :
    storeRegs base ks s = s.setMem (storeRegs base ks s).mem := by
  induction ks generalizing s with
  | nil => rfl
  | cons k ks ih => rw [storeRegs, ih]; rfl

/-- A byte store writes memory alone (R90). -/
theorem storeBytes_eq (base : Nat) (bs : List Byte) (s : State) :
    storeBytes base bs s = s.setMem (storeBytes base bs s).mem := by
  induction bs generalizing base s with
  | nil => rfl
  | cons b bs ih => rw [storeBytes, ih]; rfl

/-- The registers of a block transfer are V0 to Vx (R91, R92). -/
theorem mem_regsUpTo (x y : Reg) : y ∈ regsUpTo x ↔ y ≤ x := by
  revert x y
  decide

end Sys2Proof.Machine
end

