-- ==== Sys2Proof/Laws/Frame.lean ====
section
/-! SUPPORT. Frames: how they compose, and the pieces each update touches. -/

namespace Sys2Proof.Machine

theorem Piece.same_refl (q : Piece) (s : State) : q.same s s := by
  cases q <;> first | rfl | exact ⟨rfl, rfl⟩

theorem Piece.same_trans {q : Piece} {s t u : State} (h : q.same s t) (k : q.same t u) : q.same s u := by
  cases q <;> simp only [Piece.same] at h k ⊢ <;> first | exact k.trans h | exact ⟨k.1.trans h.1, k.2.trans h.2⟩

theorem ChangesOnly.refl (p : Piece → Prop) (s : State) : ChangesOnly p s s := fun q _ => q.same_refl s

theorem ChangesOnly.trans {p : Piece → Prop} {s t u : State} (h : ChangesOnly p s t) (k : ChangesOnly p t u) :
    ChangesOnly p s u := fun q hq => Piece.same_trans (h q hq) (k q hq)

theorem ChangesOnly.mono {p p' : Piece → Prop} {s t : State} (h : ChangesOnly p s t) (hp : ∀ q, p q → p' q) :
    ChangesOnly p' s t := fun q hq => h q fun hpq => hq (hp q hpq)

/-- Two changes in a row touch what either touches. -/
theorem ChangesOnly.append {p p' : Piece → Prop} {s t u : State} (h : ChangesOnly p s t) (k : ChangesOnly p' t u) :
    ChangesOnly (fun q => p q ∨ p' q) s u :=
  (h.mono fun _ => Or.inl).trans (k.mono fun _ => Or.inr)

variable (s : State)

theorem changes_setReg (x : Reg) (b : Byte) : ChangesOnly (· = .reg x) s (s.setReg x b) := by
  intro q hq
  cases q <;> first | exact rfl | exact ⟨rfl, rfl⟩ | skip
  rename_i y
  have h : ¬ y = x := fun e => hq (by rw [e])
  show (s.setReg x b).reg y = s.reg y
  simp [h]

theorem changes_setI (w : Word) : ChangesOnly (· = .addrI) s (s.setI w) := by
  intro q hq; cases q <;> first | exact rfl | exact ⟨rfl, rfl⟩ | exact (hq rfl).elim

theorem changes_setPc (w : Word) : ChangesOnly (· = .pc) s (s.setPc w) := by
  intro q hq; cases q <;> first | exact rfl | exact ⟨rfl, rfl⟩ | exact (hq rfl).elim

theorem changes_setSp (d : Fin 17) : ChangesOnly (· = .sp) s (s.setSp d) := by
  intro q hq; cases q <;> first | exact rfl | exact ⟨rfl, rfl⟩ | exact (hq rfl).elim

theorem changes_setStack (j : Fin 16) (w : Word) : ChangesOnly (· = .stackEntry j) s (s.setStack j w) := by
  intro q hq
  cases q <;> first | exact rfl | exact ⟨rfl, rfl⟩ | skip
  rename_i i
  have h : ¬ j.val = i.val := fun e => hq (by rw [Fin.ext e])
  show (s.setStack j w).stack[i.val] = s.stack[i.val]
  simp [h]

theorem changes_setDt (b : Byte) : ChangesOnly (· = .dt) s (s.setDt b) := by
  intro q hq; cases q <;> first | exact rfl | exact ⟨rfl, rfl⟩ | exact (hq rfl).elim

theorem changes_setSt (b : Byte) : ChangesOnly (· = .st) s (s.setSt b) := by
  intro q hq; cases q <;> first | exact rfl | exact ⟨rfl, rfl⟩ | exact (hq rfl).elim

/-- A display replaced touches pixels alone. -/
theorem changes_setDisp (d : Display) : ChangesOnly (fun q => ∃ r c, q = .pixel r c) s (s.setDisp d) := by
  intro q hq; cases q <;> first | exact rfl | exact ⟨rfl, rfl⟩ | exact (hq ⟨_, _, rfl⟩).elim

theorem changes_setKey (k : Key) (b : Bool) : ChangesOnly (· = .key k) s (s.setKey k b) := by
  intro q hq
  cases q <;> first | exact rfl | exact ⟨rfl, rfl⟩ | skip
  rename_i j
  have h : ¬ j = k := fun e => hq (by rw [e])
  show (s.setKey k b).keyDown j = s.keyDown j
  simp [h]

theorem changes_setWaiting (b : Bool) : ChangesOnly (· = .waiting) s (s.setWaiting b) := by
  intro q hq; cases q <;> first | exact rfl | exact ⟨rfl, rfl⟩ | exact (hq rfl).elim

theorem changes_setWaitReg (x : Reg) : ChangesOnly (· = .waitReg) s (s.setWaitReg x) := by
  intro q hq; cases q <;> first | exact rfl | exact ⟨rfl, rfl⟩ | exact (hq rfl).elim

theorem changes_setIDeadline (t : Nat) : ChangesOnly (· = .iDeadline) s (s.setIDeadline t) := by
  intro q hq; cases q <;> first | exact rfl | exact ⟨rfl, rfl⟩ | exact (hq rfl).elim

theorem changes_setTDeadline (t : Nat) : ChangesOnly (· = .tDeadline) s (s.setTDeadline t) := by
  intro q hq; cases q <;> first | exact rfl | exact ⟨rfl, rfl⟩ | exact (hq rfl).elim

theorem changes_setPaused (b : Bool) : ChangesOnly (· = .paused) s (s.setPaused b) := by
  intro q hq; cases q <;> first | exact rfl | exact ⟨rfl, rfl⟩ | exact (hq rfl).elim

theorem changes_setHalt (b : Bool) : ChangesOnly (· = .halt) s (s.setHalt b) := by
  intro q hq; cases q <;> first | exact rfl | exact ⟨rfl, rfl⟩ | exact (hq rfl).elim

theorem changes_setFault (c : FaultCause) (a w : Word) : ChangesOnly Piece.isFault s (s.setFault c a w) := by
  intro q hq; cases q <;> first | exact rfl | exact ⟨rfl, rfl⟩ | exact (hq trivial).elim

theorem changes_setNow (t : Nat) : ChangesOnly (· = .now) s (s.setNow t) := by
  intro q hq; cases q <;> first | exact rfl | exact ⟨rfl, rfl⟩ | exact (hq rfl).elim

theorem changes_setHost (h : List HostInput) : ChangesOnly (· = .host) s (s.setHost h) := by
  intro q hq; cases q <;> first | exact rfl | exact ⟨rfl, rfl⟩ | exact (hq rfl).elim

theorem changes_setRnd (bs : List Byte) (n : Nat) : ChangesOnly (· = .randomPort) s (s.setRnd bs n) := by
  intro q hq; cases q <;> first | exact rfl | exact ⟨rfl, rfl⟩ | exact (hq rfl).elim

/-- A byte store touches its one byte (R32, R35). -/
theorem changes_storeByte (a : Nat) (b : Byte) (h : Memory.wf s.mem = true) :
    ChangesOnly (· = .byte (memIndex a)) s (s.storeByte a b) := by
  intro q hq
  cases q <;> first | exact rfl | exact ⟨rfl, rfl⟩ | skip
  rename_i c
  have hc : ¬ c = memIndex a := fun e => hq (by rw [e])
  show memRead (s.storeByte a b).mem c = memRead s.mem c
  rw [memRead_storeByte s a c b h, if_neg hc]

/-- A raised fault records the cause, the PC and the info, and touches nothing else (R118). -/
theorem raise_raisedFault (c : FaultCause) (info : Word) : RaisedFault c info s (s.raise c info) :=
  ⟨rfl, rfl, rfl, changes_setFault s c s.pc info⟩

/-! ## Sequences of stores -/

theorem storeBytes_wf (base : Nat) (bs : List Byte) (s : State) (h : Memory.wf s.mem = true) :
    Memory.wf (storeBytes base bs s).mem = true := by
  induction bs generalizing base s with
  | nil => exact h
  | cons b bs ih => exact ih _ _ (storeByte_wf s base b h)

theorem storeRegs_wf (base : Nat) (ks : List Reg) (s : State) (h : Memory.wf s.mem = true) :
    Memory.wf (storeRegs base ks s).mem = true := by
  induction ks generalizing s with
  | nil => exact h
  | cons k ks ih => exact ih _ (storeByte_wf s _ _ h)

/-- A sequence of byte stores touches the bytes it stores to (R90). -/
theorem changes_storeBytes (base : Nat) (bs : List Byte) (s : State) (h : Memory.wf s.mem = true) :
    ChangesOnly (fun q => ∃ k, k < bs.length ∧ q = .byte (memIndex (base + k))) s (storeBytes base bs s) := by
  induction bs generalizing base s with
  | nil => exact ChangesOnly.refl _ s
  | cons b bs ih =>
    refine ((changes_storeByte s base b h).mono ?_).trans ((ih (base + 1) _ (storeByte_wf s base b h)).mono ?_)
    · rintro q rfl
      exact ⟨0, by simp, rfl⟩
    · rintro q ⟨k, hk, rfl⟩
      exact ⟨k + 1, by simpa using hk, by rw [Nat.add_assoc, Nat.add_comm 1]⟩

/-- A block store touches the bytes of the listed registers (R91). -/
theorem changes_storeRegs (base : Nat) (ks : List Reg) (s : State) (h : Memory.wf s.mem = true) :
    ChangesOnly (fun q => ∃ k ∈ ks, q = .byte (memIndex (base + k.val))) s (storeRegs base ks s) := by
  induction ks generalizing s with
  | nil => exact ChangesOnly.refl _ s
  | cons k ks ih =>
    refine ((changes_storeByte s _ _ h).mono ?_).trans ((ih _ (storeByte_wf s _ _ h)).mono ?_)
    · rintro q rfl
      exact ⟨k, by simp, rfl⟩
    · rintro q ⟨j, hj, rfl⟩
      exact ⟨j, by simp [hj], rfl⟩

/-- A block load touches the listed registers (R92). -/
theorem changes_loadRegs (base : Nat) (ks : List Reg) (s : State) :
    ChangesOnly (fun q => ∃ k ∈ ks, q = .reg k) s (loadRegs base ks s) := by
  induction ks generalizing s with
  | nil => exact ChangesOnly.refl _ s
  | cons k ks ih =>
    refine ((changes_setReg s _ _).mono ?_).trans ((ih _).mono ?_)
    · rintro q rfl
      exact ⟨k, by simp, rfl⟩
    · rintro q ⟨j, hj, rfl⟩
      exact ⟨j, by simp [hj], rfl⟩

/-- The two writes of a flag-writing instruction touch V[x] and VF (R84). -/
theorem changes_writeResultAndFlag (x : Reg) (r f : Byte) :
    ChangesOnly (fun q => q = .reg x ∨ q = .reg vf) s (s.writeResultAndFlag x r f) := by
  unfold State.writeResultAndFlag
  cases s.params.vfOrder with
  | flagLast => exact (changes_setReg s x r).append (changes_setReg _ vf f)
  | flagFirst => exact ((changes_setReg s vf f).append (changes_setReg _ x r)).mono fun _ h => h.symm

end Sys2Proof.Machine
end

