-- ==== Sys2Proof/Laws/Graphics.lean ====
section
/-! SUPPORT. The display: what one plot does to every pixel (R95), and what a sequence of plots does. -/

namespace Sys2Proof.Machine

/-- A toggle flips the pixel at row r mod 32 and column c mod 64 and no other (R95). -/
theorem pixel_togglePixel (d : Display) (r c r' c' : Nat) :
    pixel (togglePixel d r c) r' c' = (pixel d r' c' ^^ decide (r % 32 = r' % 32 ∧ c % 64 = c' % 64)) := by
  have hc : c' % 64 < 64 := Nat.mod_lt _ (by decide)
  simp only [pixel, togglePixel, Vector.getElem_set]
  by_cases hr : r % 32 = r' % 32
  · simp only [hr, if_true, true_and, BitVec.getLsbD_xor, BitVec.getLsbD_shiftLeft, hc, decide_true, Bool.true_and,
      BitVec.getLsbD_one]
    congr 1
    by_cases hcc : c % 64 = c' % 64
    · simp [hcc]
    · by_cases hlt : c' % 64 < c % 64
      · simp [hlt, hcc]
      · simp only [hlt, decide_false, Bool.not_false, Bool.true_and, hcc]
        have : ¬ c' % 64 - c % 64 = 0 := by omega
        simp [this]
  · simp [hr]

/-- A pixel after a sequence of plots: flipped once for each plot that falls on it (R94, R95). -/
theorem pixel_plotAll (ps : List (Nat × Nat)) (d : Display) (hit : Bool) (r c : Nat) :
    pixel (plotAll ps d hit).1 r c =
      (pixel d r c ^^ decide ((ps.countP fun p => p.1 % 32 = r % 32 ∧ p.2 % 64 = c % 64) % 2 = 1)) := by
  induction ps generalizing d hit with
  | nil => simp [plotAll]
  | cons p ps ih =>
    obtain ⟨r0, c0⟩ := p
    rw [plotAll, ih, pixel_togglePixel, List.countP_cons]
    by_cases h : r0 % 32 = r % 32 ∧ c0 % 64 = c % 64
    · simp only [h, and_self, decide_true]
      generalize ps.countP _ = n
      rcases Nat.mod_two_eq_zero_or_one n with hn | hn
      · have : (n + 1) % 2 = 1 := by omega
        simp [hn, this]
      · have : (n + 1) % 2 = 0 := by omega
        simp [hn, this]
    · simp [h]

/-- The clear display has every pixel off (R93). -/
theorem pixel_clearDisplay (r c : Nat) : pixel clearDisplay r c = false := by
  simp [pixel, clearDisplay]

end Sys2Proof.Machine
end

