-- ==== Sys2Proof/Laws/PerInstr.lean ====
section
/-! SUPPORT. A statement for all instructions, made per instruction: the high nibble of an instruction's word is the
family its row of the opcode map gives (spec/30_encoding.md R47, R50). -/

namespace Sys2Proof.Laws.OpcodeFamily

/-- The primary dispatch of i's word is the high nibble of its row's match. -/
def Statement (i : Instr) : Prop := (fieldOp (encode i)).val = (opcodeMatch i).toNat / 4096

theorem halt : Statement (.halt) := by unfold Statement; decide
theorem cls : Statement (.cls) := by unfold Statement; decide
theorem ret : Statement (.ret) := by unfold Statement; decide
theorem sys (nnn : Addr12) : Statement (.sys nnn) := by simp [Statement, encode, opcodeMatch]
theorem jp (nnn : Addr12) : Statement (.jp nnn) := by simp [Statement, encode, opcodeMatch]
theorem call (nnn : Addr12) : Statement (.call nnn) := by simp [Statement, encode, opcodeMatch]
theorem seImm (x : Reg) (nn : Byte) : Statement (.seImm x nn) := by simp [Statement, encode, opcodeMatch]
theorem sneImm (x : Reg) (nn : Byte) : Statement (.sneImm x nn) := by simp [Statement, encode, opcodeMatch]
theorem seReg (x : Reg) (y : Reg) (low : Nibble) : Statement (.seReg x y low) := by simp [Statement, encode, opcodeMatch]
theorem ldImm (x : Reg) (nn : Byte) : Statement (.ldImm x nn) := by simp [Statement, encode, opcodeMatch]
theorem addImm (x : Reg) (nn : Byte) : Statement (.addImm x nn) := by simp [Statement, encode, opcodeMatch]
theorem ldReg (x : Reg) (y : Reg) : Statement (.ldReg x y) := by simp [Statement, encode, opcodeMatch]
theorem orReg (x : Reg) (y : Reg) : Statement (.orReg x y) := by simp [Statement, encode, opcodeMatch]
theorem andReg (x : Reg) (y : Reg) : Statement (.andReg x y) := by simp [Statement, encode, opcodeMatch]
theorem xorReg (x : Reg) (y : Reg) : Statement (.xorReg x y) := by simp [Statement, encode, opcodeMatch]
theorem addReg (x : Reg) (y : Reg) : Statement (.addReg x y) := by simp [Statement, encode, opcodeMatch]
theorem subReg (x : Reg) (y : Reg) : Statement (.subReg x y) := by simp [Statement, encode, opcodeMatch]
theorem shrReg (x : Reg) (y : Reg) : Statement (.shrReg x y) := by simp [Statement, encode, opcodeMatch]
theorem subnReg (x : Reg) (y : Reg) : Statement (.subnReg x y) := by simp [Statement, encode, opcodeMatch]
theorem shlReg (x : Reg) (y : Reg) : Statement (.shlReg x y) := by simp [Statement, encode, opcodeMatch]
theorem sneReg (x : Reg) (y : Reg) (low : Nibble) : Statement (.sneReg x y low) := by simp [Statement, encode, opcodeMatch]
theorem ldI (nnn : Addr12) : Statement (.ldI nnn) := by simp [Statement, encode, opcodeMatch]
theorem jpV0 (nnn : Addr12) : Statement (.jpV0 nnn) := by simp [Statement, encode, opcodeMatch]
theorem rnd (x : Reg) (nn : Byte) : Statement (.rnd x nn) := by simp [Statement, encode, opcodeMatch]
theorem drw (x : Reg) (y : Reg) (n : Nibble) : Statement (.drw x y n) := by simp [Statement, encode, opcodeMatch]
theorem skp (x : Reg) : Statement (.skp x) := by simp [Statement, encode, opcodeMatch]
theorem sknp (x : Reg) : Statement (.sknp x) := by simp [Statement, encode, opcodeMatch]
theorem ldVxDt (x : Reg) : Statement (.ldVxDt x) := by simp [Statement, encode, opcodeMatch]
theorem ldVxK (x : Reg) : Statement (.ldVxK x) := by simp [Statement, encode, opcodeMatch]
theorem ldDtVx (x : Reg) : Statement (.ldDtVx x) := by simp [Statement, encode, opcodeMatch]
theorem ldStVx (x : Reg) : Statement (.ldStVx x) := by simp [Statement, encode, opcodeMatch]
theorem addI (x : Reg) : Statement (.addI x) := by simp [Statement, encode, opcodeMatch]
theorem ldF (x : Reg) : Statement (.ldF x) := by simp [Statement, encode, opcodeMatch]
theorem ldB (x : Reg) : Statement (.ldB x) := by simp [Statement, encode, opcodeMatch]
theorem ldStore (x : Reg) : Statement (.ldStore x) := by simp [Statement, encode, opcodeMatch]
theorem ldLoad (x : Reg) : Statement (.ldLoad x) := by simp [Statement, encode, opcodeMatch]

end Sys2Proof.Laws.OpcodeFamily
end

