-- ==== Sys2Proof/Laws/Schedule.lean ====
section
/-! SUPPORT. The scheduler: what a sequence of outcomes, one execution of the engine and one iteration can do. -/

namespace Sys2Proof.Machine

@[simp] theorem Result.andThen_next (s : State) (f : State → Result) : Result.andThen (.next s) f = f s := rfl

theorem Result.unlessFaulted_next (s : State) (f : State → Result) :
    Result.unlessFaulted (.next s) f = if s.faulted then .next s else f s := rfl

/-- Where a sequence answers a next state, its first part did, and the rest ran unless a fault is recorded (R123). -/
theorem Result.unlessFaulted_cases {r : Result} {f : State → Result} {t : State}
    (h : Result.unlessFaulted r f = .next t) :
    ∃ s, r = .next s ∧ ((s.faulted = true ∧ t = s) ∨ (s.faulted = false ∧ f s = .next t)) := by
  cases r with
  | next s =>
    refine ⟨s, rfl, ?_⟩
    rw [Result.unlessFaulted_next] at h
    cases hf : s.faulted with
    | true => rw [hf, if_pos rfl] at h; injection h with h; exact .inl ⟨rfl, h.symm⟩
    | false => rw [hf] at h; exact .inr ⟨rfl, h⟩
  | fault e => cases e
  | refused e => cases h

theorem State.faulted_iff (s : State) : s.faulted = true ↔ s.faultCause ≠ .noFault := by
  simp [State.faulted]

theorem State.faulted_eq_false_iff (s : State) : s.faulted = false ↔ s.faultCause = .noFault := by
  simp [State.faulted]

/-- One execution of the engine: the fetch faults, the decode faults, or the handler runs (R45, R117). -/
theorem executeOne_cases (s : State) :
    (∃ a, s.fetch = .error a ∧ executeOne s = .next (s.raise .addressFault a)) ∨
    (∃ w e, s.fetch = .ok w ∧ decodeWord w = .error e ∧ executeOne s = .next (s.raise .decodeFault w)) ∨
    (∃ w i, s.fetch = .ok w ∧ decodeWord w = .ok i ∧ executeOne s = exec i s) := by
  unfold executeOne
  cases hf : s.fetch with
  | error a => exact .inl ⟨a, rfl, rfl⟩
  | ok w =>
    cases hd : decodeWord w with
    | error e => exact .inr (.inl ⟨w, e, rfl, hd, by simp only [hd]⟩)
    | ok i => exact .inr (.inr ⟨w, i, rfl, hd, by simp only [hd]⟩)

/-- An iteration of a dead or ended machine does nothing (R110, R122, R123). -/
theorem iterateNow_stopped (events : List Event) (s : State) (h : s.stopped = true) :
    iterateNow events s = .next s := by
  simp [iterateNow, h]

/-- An iteration that answers a next state: it was stopped, or it faulted in a phase, or all three phases ran (R123). -/
theorem iterateNow_cases {events : List Event} {s t : State} (h : iterateNow events s = .next t) :
    (s.stopped = true ∧ t = s) ∨
    (s.stopped = false ∧ ∃ u, applyEvents events s = .next u ∧
      ((u.faulted = true ∧ t = u) ∨
        (u.faulted = false ∧ ∃ w, instructionPhase u = .next w ∧
          ((w.faulted = true ∧ t = w) ∨ (w.faulted = false ∧ t = w.timerPhase))))) := by
  unfold iterateNow at h
  cases hs : s.stopped with
  | true => rw [hs, if_pos rfl] at h; injection h with h; exact .inl ⟨rfl, h.symm⟩
  | false =>
    rw [hs] at h
    obtain ⟨u, hu, h⟩ := Result.unlessFaulted_cases h
    refine .inr ⟨rfl, u, hu, ?_⟩
    rcases h with h | ⟨hf, h⟩
    · exact .inl h
    · obtain ⟨w, hw, h⟩ := Result.unlessFaulted_cases h
      refine .inr ⟨hf, w, hw, ?_⟩
      rcases h with h | ⟨hg, h⟩
      · exact .inl h
      · injection h with h
        exact .inr ⟨hg, h.symm⟩

/-- The timer phase touches DT, ST and T_DEADLINE alone (R126). -/
theorem State.timerPhase_eq (s : State) :
    s.timerPhase = { s with dt := s.timerPhase.dt, st := s.timerPhase.st, tDeadline := s.timerPhase.tDeadline } := by
  unfold State.timerPhase
  split <;> rfl

/-- A step is an iteration or a reset, with the host's action taken off its list (R123, R140). -/
theorem step_eq (s : State) : step s = runInput s.nextInput.1 (s.setHost s.nextInput.2) := rfl

/-- A step whose host action is an iteration is that iteration from the sampled state (R123). -/
theorem step_iterate {s : State} {elapsed : Nat} {events : List Event} {rest : List HostInput}
    (h : s.host = .iterate elapsed events :: rest) : step s = iterateNow events (s.sampled elapsed rest) := by
  rw [step_eq, State.nextInput, h]; rfl

/-- A live machine's iteration whose events leave it without a fault: the two clocks, in order (R123). -/
theorem iterateNow_live {events : List Event} {s u : State} (hf : s.faultCause = .noFault) (hh : s.halt = false)
    (he : applyEvents events s = .next u) (hu : u.faultCause = .noFault) :
    iterateNow events s = Result.unlessFaulted (instructionPhase u) fun w => .next w.timerPhase := by
  simp [iterateNow, State.stopped, State.faulted, hf, hh, he, hu, Result.unlessFaulted]

/-- The events of a running machine's key iteration touch KEY alone (R124). -/
theorem State.afterKeys_eq (es : List Event) (s : State) : s.afterKeys es = { s with key := (s.afterKeys es).key } := by
  induction es generalizing s with
  | nil => rfl
  | cons e es ih =>
    cases e with
    | keyPress k => exact ih (s.setKey k true)
    | keyRelease k => exact ih (s.setKey k false)
    | pauseToggle | singleStep | exitRequest => exact ih s

/-- Key events and single steps leave a running machine running, with its keys changed in order (R124, R128). -/
theorem applyEvents_keysOnly {es : List Event} {s : State} (hr : s.Running) (hk : KeysOnly es) :
    applyEvents es s = .next (s.afterKeys es) := by
  induction es generalizing s with
  | nil => rfl
  | cons e es ih =>
    have hes : KeysOnly es := ⟨fun h => hk.1 (.tail _ h), fun h => hk.2 (.tail _ h)⟩
    have key (k : Key) (b : Bool) := ih (s := s.setKey k b) hr hes
    cases e with
    | keyPress k =>
      rw [State.afterKeys, ← key k true]
      simp [applyEvents, applyEvent, State.keyPress, Result.unlessFaulted_next, State.faulted, hr.1, hr.2.2.2]
    | keyRelease k =>
      rw [State.afterKeys, ← key k false]
      simp [applyEvents, applyEvent, State.keyRelease, Result.unlessFaulted_next, State.faulted, hr.1]
    | singleStep =>
      rw [State.afterKeys, ← ih hr hes]
      simp [applyEvents, applyEvent, singleStep, Result.unlessFaulted_next, State.faulted, hr.1, hr.2.2.1]
    | pauseToggle => exact absurd (.head _) hk.1
    | exitRequest => exact absurd (.head _) hk.2

/-- What no instruction touches: the deadlines, the pause, the parameters, the time and the host's list. -/
structure SameClocks (s t : State) : Prop where
  /-- `I_DEADLINE`. -/
  iDeadline : t.iDeadline = s.iDeadline
  /-- `T_DEADLINE`. -/
  tDeadline : t.tDeadline = s.tDeadline
  /-- `PAUSED`. -/
  paused : t.paused = s.paused
  /-- The parameters. -/
  params : t.params = s.params
  /-- The time. -/
  now : t.now = s.now
  /-- The host's list. -/
  host : t.host = s.host

theorem SameClocks.raise (s : State) (c : FaultCause) (w : Word) : SameClocks s (s.raise c w) :=
  ⟨rfl, rfl, rfl, rfl, rfl, rfl⟩

theorem SameClocks.skipIf (s : State) (c : Bool) : SameClocks s (s.skipIf c) := by
  rw [State.skipIf_eq]; exact ⟨rfl, rfl, rfl, rfl, rfl, rfl⟩

theorem SameClocks.skipOnKey (s : State) (b : Byte) (down : Bool) : SameClocks s (s.skipOnKey b down) := by
  unfold State.skipOnKey
  split
  exacts [.raise s _ _, .skipIf s _]

theorem SameClocks.accessing {s done : State} (base n : Nat) (h : SameClocks s done) :
    SameClocks s (s.accessing base n done) := by
  rcases s.accessing_cases base n done with ⟨_, e⟩ | ⟨a, _, e⟩ <;> rw [e]
  exacts [h, .raise s _ a]

theorem SameClocks.writeResultAndFlag (s : State) (x : Reg) (r f : Byte) :
    SameClocks s (s.writeResultAndFlag x r f).advance := by
  rw [State.writeResultAndFlag_eq]; exact ⟨rfl, rfl, rfl, rfl, rfl, rfl⟩

/-- An instruction that answers a next state leaves the clocks, the pause, the parameters and the host's side as they
were (R7, R130). -/
theorem exec_sameClocks {i : Instr} {s t : State} (h : exec i s = .next t) : SameClocks s t := by
  cases i with
  | sys nnn =>
    change execSys nnn s = _ at h
    unfold execSys at h
    split at h <;> cases h
    exacts [.raise s _ _, ⟨rfl, rfl, rfl, rfl, rfl, rfl⟩]
  | ret =>
    change execRet s = _ at h
    unfold execRet at h
    split at h <;> cases h
    · exact .raise s _ _
    · next a u hp =>
      obtain ⟨-, -, -, rfl⟩ := s.pop?_eq_some _ _ hp
      exact ⟨rfl, rfl, rfl, rfl, rfl, rfl⟩
  | call nnn =>
    change execCall nnn s = _ at h
    unfold execCall at h
    split at h <;> cases h
    · exact .raise s _ _
    · next u hp =>
      obtain ⟨-, -, rfl⟩ := s.push?_eq_some _ _ hp
      exact ⟨rfl, rfl, rfl, rfl, rfl, rfl⟩
  | seImm | sneImm | seReg | sneReg => cases h; exact .skipIf s _
  | addReg | subReg | shrReg | subnReg | shlReg => cases h; exact .writeResultAndFlag s _ _ _
  | rnd x nn => cases h; rw [State.afterDraw_eq]; exact ⟨rfl, rfl, rfl, rfl, rfl, rfl⟩
  | ldB x => cases h; exact .accessing _ _ (by rw [storeBytes_eq]; exact ⟨rfl, rfl, rfl, rfl, rfl, rfl⟩)
  | ldStore x => cases h; exact .accessing _ _ (by rw [storeRegs_eq]; exact ⟨rfl, rfl, rfl, rfl, rfl, rfl⟩)
  | ldLoad x => cases h; exact .accessing _ _ (by rw [loadRegs_eq]; exact ⟨rfl, rfl, rfl, rfl, rfl, rfl⟩)
  | drw x y n => cases h; exact .accessing _ _ ⟨rfl, rfl, rfl, rfl, rfl, rfl⟩
  | skp | sknp => cases h; exact .skipOnKey s _ _
  | halt | cls | jp | jpV0 | ldImm | addImm | ldReg | orReg | andReg | xorReg | ldI | addI | ldF | ldVxDt | ldVxK | ldDtVx
  | ldStVx => cases h; exact ⟨rfl, rfl, rfl, rfl, rfl, rfl⟩

/-- So does one execution of the engine (R45, R118). -/
theorem executeOne_sameClocks {s t : State} (h : executeOne s = .next t) : SameClocks s t := by
  rcases executeOne_cases s with ⟨a, _, e⟩ | ⟨w, _, _, _, e⟩ | ⟨w, i, _, _, e⟩ <;> rw [e] at h
  · cases h; exact .raise s _ a
  · cases h; exact .raise s _ w
  · exact exec_sameClocks h

end Sys2Proof.Machine
end

