-- ==== Sys2Proof/Tests/Slice0.lean ====
section
/-! SUPPORT. Tests of the model. Expected results come from spec/95_test_vectors.md (the vector is named at each test)
or from a rule's own example; the last section shows, for each statement with hypotheses, a state and operands that
meet them. -/

namespace Sys2Proof.Tests

open Sys2Proof.Machine

/-! ## Helpers -/

/-- What f reads of the state that follows i at s. -/
def after {α : Type} (i : Instr) (s : State) (f : State → α) : Option α :=
  match exec i s with
  | .next t => some (f t)
  | .fault _ => none
  | .refused _ => none

/-- What f reads of the state after n steps from s. -/
def afterSteps {α : Type} (n : Nat) (s : State) (f : State → α) : Option α :=
  match Host.Core.run { State := State, Fault := Fault, Refusal := Refusal, step := step, reset := State.reset } n s with
  | .next t => some (f t)
  | .fault _ => none
  | .refused _ => none

/-- The reset state with bytes at 0x200. -/
def withProgram (bytes : List Byte) : State := State.reset.setMem (loadImage 0x200 bytes [])

/-- The reset state with V1 = a, V2 = b, VF = 0x55 (V-ALU-1). -/
def aluState (a b : Byte) : State := ((State.reset.setReg 1 a).setReg 2 b).setReg 15 0x55#8

/-- The fault registers and PC, as the fault vectors give them. -/
def faultRow (s : State) : Nat × Nat × Nat × Nat :=
  ((faultCode s.faultCause).toNat, s.faultPc.toNat, s.faultInfo.toNat, s.pc.toNat)

/-- The columns of row r that are set. -/
def rowSet (s : State) (r : Nat) : List Nat := (List.range 64).filter fun c => pixel s.disp r c

/-! ## Well-formedness: the one check of each kind refuses its ill-formed term -/

theorem test_wf_refuses_sys_000 : Instr.wf (.sys 0x000#12) = false := by decide
theorem test_wf_refuses_sys_0E0 : Instr.wf (.sys 0x0E0#12) = false := by decide
theorem test_wf_refuses_sys_0EE : Instr.wf (.sys 0x0EE#12) = false := by decide
theorem test_wf_accepts_sys_001 : Instr.wf (.sys 0x001#12) = true := by decide

/-! ## Decode: a word of every constructor, written out from R50 (V-DEC-1) -/

theorem test_decode_family_0 :
    decodeBytes 0x00#8 0x00#8 = .ok .halt ∧ decodeBytes 0x00#8 0xE0#8 = .ok .cls ∧
    decodeBytes 0x00#8 0xEE#8 = .ok .ret ∧ decodeBytes 0x01#8 0x23#8 = .ok (.sys 0x123#12) := by decide

theorem test_decode_family_0_examines_twelve_bits :
    decodeBytes 0x01#8 0xE0#8 = .ok (.sys 0x1E0#12) ∧ decodeBytes 0x00#8 0x01#8 = .ok (.sys 0x001#12) := by decide

theorem test_decode_address_forms :
    decodeBytes 0x10#8 0xE0#8 = .ok (.jp 0x0E0#12) ∧ decodeBytes 0x2A#8 0xBC#8 = .ok (.call 0xABC#12) ∧
    decodeBytes 0xA2#8 0xF0#8 = .ok (.ldI 0x2F0#12) ∧ decodeBytes 0xB3#8 0x00#8 = .ok (.jpV0 0x300#12) := by decide

theorem test_decode_immediate_forms :
    decodeBytes 0x3A#8 0x7F#8 = .ok (.seImm 0xA 0x7F#8) ∧ decodeBytes 0x4A#8 0x7F#8 = .ok (.sneImm 0xA 0x7F#8) ∧
    decodeBytes 0x6A#8 0x2F#8 = .ok (.ldImm 0xA 0x2F#8) ∧ decodeBytes 0x70#8 0x05#8 = .ok (.addImm 0 0x05#8) ∧
    decodeBytes 0xC3#8 0x0F#8 = .ok (.rnd 3 0x0F#8) := by decide

theorem test_decode_low_nibble_not_examined :
    decodeBytes 0x51#8 0x20#8 = .ok (.seReg 1 2 0x0#4) ∧ decodeBytes 0x51#8 0x2F#8 = .ok (.seReg 1 2 0xF#4) ∧
    decodeBytes 0x91#8 0x20#8 = .ok (.sneReg 1 2 0x0#4) ∧ decodeBytes 0x91#8 0x27#8 = .ok (.sneReg 1 2 0x7#4) := by decide

theorem test_decode_family_8 :
    decodeBytes 0x81#8 0x20#8 = .ok (.ldReg 1 2) ∧ decodeBytes 0x81#8 0x21#8 = .ok (.orReg 1 2) ∧
    decodeBytes 0x81#8 0x22#8 = .ok (.andReg 1 2) ∧ decodeBytes 0x81#8 0x23#8 = .ok (.xorReg 1 2) ∧
    decodeBytes 0x81#8 0x24#8 = .ok (.addReg 1 2) ∧ decodeBytes 0x81#8 0x25#8 = .ok (.subReg 1 2) ∧
    decodeBytes 0x81#8 0x26#8 = .ok (.shrReg 1 2) ∧ decodeBytes 0x81#8 0x27#8 = .ok (.subnReg 1 2) ∧
    decodeBytes 0x81#8 0x2E#8 = .ok (.shlReg 1 2) := by decide

theorem test_decode_draw : decodeBytes 0xD1#8 0x25#8 = .ok (.drw 1 2 0x5#4) := by decide

theorem test_decode_keys :
    decodeBytes 0xE1#8 0x9E#8 = .ok (.skp 1) ∧ decodeBytes 0xE1#8 0xA1#8 = .ok (.sknp 1) := by decide

theorem test_decode_family_F :
    decodeBytes 0xF1#8 0x07#8 = .ok (.ldVxDt 1) ∧ decodeBytes 0xF1#8 0x0A#8 = .ok (.ldVxK 1) ∧
    decodeBytes 0xF1#8 0x15#8 = .ok (.ldDtVx 1) ∧ decodeBytes 0xF1#8 0x18#8 = .ok (.ldStVx 1) ∧
    decodeBytes 0xF1#8 0x1E#8 = .ok (.addI 1) ∧ decodeBytes 0xF1#8 0x29#8 = .ok (.ldF 1) ∧
    decodeBytes 0xF1#8 0x33#8 = .ok (.ldB 1) ∧ decodeBytes 0xF1#8 0x55#8 = .ok (.ldStore 1) ∧
    decodeBytes 0xF1#8 0x65#8 = .ok (.ldLoad 1) := by decide

theorem test_decode_rejects :
    decodeBytes 0x81#8 0x28#8 = .error (.undefinedAluSelector 0x8#4) ∧
    decodeBytes 0x81#8 0x2D#8 = .error (.undefinedAluSelector 0xD#4) ∧
    decodeBytes 0x81#8 0x2F#8 = .error (.undefinedAluSelector 0xF#4) ∧
    decodeBytes 0xE1#8 0x9F#8 = .error (.undefinedKeySelector 0x9F#8) ∧
    decodeBytes 0xE1#8 0xA0#8 = .error (.undefinedKeySelector 0xA0#8) ∧
    decodeBytes 0xF0#8 0x66#8 = .error (.undefinedMiscSelector 0x66#8) ∧
    decodeBytes 0xF1#8 0x75#8 = .error (.undefinedMiscSelector 0x75#8) := by decide

theorem test_encode_words :
    encode (.drw 1 2 0x5#4) = 0xD125#16 ∧ encode (.call 0x210#12) = 0x2210#16 ∧ encode (.skp 5) = 0xE59E#16 ∧
    encode (.shlReg 1 0) = 0x810E#16 ∧ encode (.ldStore 15) = 0xFF55#16 := by decide

theorem test_table_word_bits : decodeTableWord 16 0x8127 = some (.subnReg 1 2) := by decide

/-! ## Control flow (V-CF-1, V-CF-2, S11, S12, V-CF-4) -/

theorem test_halt : after .halt State.reset (fun t => (t.halt, t.pc)) = some (true, 0x0200#16) := by decide
theorem test_sys_default : after (.sys 0x123#12) State.reset faultRow = some (1, 0x200, 0x123, 0x200) := by decide
theorem test_ret_underflow : after .ret State.reset faultRow = some (2, 0x200, 0, 0x200) := by decide
theorem test_ret_adds_two :
    after .ret (((State.reset.setPc 0x0212#16).setStack 0 0x0204#16).setSp 1) (fun t => (t.sp.val, t.pc)) =
      some (0, 0x0206#16) := by decide
theorem test_call_pushes_itself :
    after (.call 0x210#12) (State.reset.setPc 0x0204#16) (fun t => (t.stack[0], t.sp.val, t.pc)) =
      some (0x0204#16, 1, 0x0210#16) := by decide
theorem test_call_overflow : after (.call 0x200#12) (State.reset.setSp 16) faultRow = some (3, 0x200, 0, 0x200) := by decide
theorem test_jp : after (.jp 0xABC#12) State.reset State.pc = some 0x0ABC#16 := by decide
theorem test_jpV0_far : after (.jpV0 0xFFF#12) (State.reset.setReg 0 0xFF#8) State.pc = some 0x10FE#16 := by decide
theorem test_jpV0_not_vx :
    after (.jpV0 0x300#12) ((State.reset.setReg 0 4#8).setReg 3 0x50#8) State.pc = some 0x0304#16 := by decide
theorem test_seImm : after (.seImm 1 0x42#8) (State.reset.setReg 1 0x42#8) State.pc = some 0x0204#16 := by decide
theorem test_seImm_not : after (.seImm 1 0x42#8) (State.reset.setReg 1 0x43#8) State.pc = some 0x0202#16 := by decide
theorem test_sneImm : after (.sneImm 1 0x42#8) (State.reset.setReg 1 0x43#8) State.pc = some 0x0204#16 := by decide
theorem test_seReg : after (.seReg 1 2 0xF#4) (aluState 7#8 7#8) State.pc = some 0x0204#16 := by decide
theorem test_sneReg : after (.sneReg 1 2 0x7#4) (aluState 7#8 8#8) State.pc = some 0x0204#16 := by decide
theorem test_sneReg_same : after (.sneReg 1 1 0x0#4) (aluState 3#8 8#8) State.pc = some 0x0202#16 := by decide

/-! ## ALU (V-ALU-1, V-ALU-2, V-ALU-3) -/

theorem test_ldImm_vf : after (.ldImm 15 0x01#8) (aluState 0#8 0#8) (·.reg 15) = some 0x01#8 := by decide
theorem test_addImm_no_flag :
    after (.addImm 0 0x05#8) ((aluState 0#8 0#8).setReg 0 0xFE#8) (fun t => (t.reg 0, t.reg 15)) =
      some (0x03#8, 0x55#8) := by decide
theorem test_ldReg : after (.ldReg 1 2) (aluState 0x81#8 0x0F#8) (fun t => (t.reg 1, t.reg 15)) = some (0x0F#8, 0x55#8) := by
  decide
theorem test_orReg : after (.orReg 1 2) (aluState 0x81#8 0x0F#8) (fun t => (t.reg 1, t.reg 15)) = some (0x8F#8, 0x55#8) := by
  decide
theorem test_andReg : after (.andReg 1 2) (aluState 0x81#8 0x0F#8) (fun t => (t.reg 1, t.reg 15)) = some (0x01#8, 0x55#8) := by
  decide
theorem test_xorReg : after (.xorReg 1 2) (aluState 0x81#8 0x0F#8) (fun t => (t.reg 1, t.reg 15)) = some (0x8E#8, 0x55#8) := by
  decide
theorem test_addReg_overflow : after (.addReg 1 2) (aluState 0xFF#8 0x01#8) (fun t => (t.reg 1, t.reg 15)) = some (0#8, 0#8) := by
  decide
theorem test_addReg_vf_addend : after (.addReg 1 15) ((State.reset.setReg 1 0xF0#8).setReg 15 0x20#8)
    (fun t => (t.reg 1, t.reg 15)) = some (0x10#8, 0#8) := by decide
theorem test_subReg_borrow : after (.subReg 1 2) (aluState 0x01#8 0xFF#8) (fun t => (t.reg 1, t.reg 15)) = some (2#8, 0#8) := by
  decide
theorem test_subReg_equal : after (.subReg 1 2) (aluState 0x80#8 0x80#8) (fun t => (t.reg 1, t.reg 15)) = some (0#8, 1#8) := by
  decide
theorem test_subReg_vf_destination :
    after (.subReg 15 2) ((State.reset.setReg 15 0x81#8).setReg 2 0x90#8) (·.reg 15) = some 0#8 := by decide
theorem test_shrReg : after (.shrReg 1 2) (aluState 0x81#8 0x0F#8) (fun t => (t.reg 1, t.reg 15)) = some (0x40#8, 1#8) := by
  decide
theorem test_shrReg_vf_flag_first :
    after (.shrReg 15 2) { State.reset.setReg 15 0x81#8 with params := { Config.Params.default with vfOrder := .flagFirst } }
      (·.reg 15) = some 0x40#8 := by decide
theorem test_subnReg : after (.subnReg 1 2) (aluState 0xFE#8 0x01#8) (fun t => (t.reg 1, t.reg 15)) = some (3#8, 0#8) := by
  decide
theorem test_shlReg_raw_bit : after (.shlReg 1 2) (aluState 0xC1#8 0x0F#8) (fun t => (t.reg 1, t.reg 15)) =
    some (0x82#8, 0x80#8) := by decide
theorem test_rnd : after (.rnd 3 0x0F#8) (State.reset.setRnd [0xB7#8] 0) (·.reg 3) = some 0x07#8 := by decide

/-! ## Address register and memory (V-MEM-1, V-MEM-2, V-MEM-3) -/

theorem test_ldI : after (.ldI 0xFFF#12) State.reset State.i = some 0x0FFF#16 := by decide
theorem test_addI_wraps : after (.addI 0) ((State.reset.setI 0xFFFF#16).setReg 0 2#8) (fun t => (t.i, t.reg 15)) =
    some (0x0001#16, 0#8) := by decide
theorem test_ldF_beyond_font : after (.ldF 0) (State.reset.setReg 0 0xFF#8) State.i = some 0x04FB#16 := by decide
theorem test_ldB_255_at_top : after (.ldB 0) ((State.reset.setI 0x0FFD#16).setReg 0 255#8)
    (fun t => (t.loadByte 0xFFD, t.loadByte 0xFFE, t.loadByte 0xFFF, t.faulted)) = some (2#8, 5#8, 5#8, false) := by decide
theorem test_ldB_out_of_range : after (.ldB 0) ((State.reset.setI 0x0FFE#16).setReg 0 255#8)
    (fun t => (faultRow t, t.mem)) = some ((4, 0x200, 0x1000, 0x200), []) := by decide
theorem test_ldStore : after (.ldStore 1) (((aluState 0x22#8 0x33#8).setReg 0 0x11#8).setI 0x0400#16)
    (fun t => (t.mem, t.i)) = some ([(0x400, 0x11#8), (0x401, 0x22#8)], 0x0400#16) := by decide
theorem test_ldStore_out_of_range : after (.ldStore 15) (State.reset.setI 0x0FF1#16) faultRow =
    some (4, 0x200, 0x1000, 0x200) := by decide
theorem test_ldLoad : after (.ldLoad 2) ((State.reset.setI 0x0300#16).setMem [(0x300, 2#8), (0x302, 5#8)])
    (fun t => (t.reg 0, t.reg 1, t.reg 2, t.i)) = some (2#8, 0#8, 5#8, 0x0300#16) := by decide
theorem test_ldLoad_far : after (.ldLoad 0) (State.reset.setI 0x10FE#16) faultRow = some (4, 0x200, 0x10FE, 0x200) := by
  decide

/-! ## Display (section 6 of the vectors, S3, S5) -/

theorem test_cls : after .cls (State.reset.setDisp (togglePixel clearDisplay 31 63)) (rowSet · 31) = some [] := by decide

set_option maxRecDepth 8000 in
theorem test_drw_wraps : after (.drw 1 2 5#4) (aluState 62#8 30#8)
    (fun t => (rowSet t 30, rowSet t 31, rowSet t 2, t.reg 15)) =
      some ([0, 1, 62, 63], [1, 62], [0, 1, 62, 63], 0#8) := by decide

set_option maxRecDepth 8000 in
theorem test_drw_vf_is_the_old_column : after (.drw 15 2 1#4) ((State.reset.setReg 15 3#8).setReg 2 1#8)
    (fun t => (rowSet t 1, t.reg 15)) = some ([3, 4, 5, 6], 0#8) := by decide

theorem test_drw_no_rows : after (.drw 1 2 0#4) ((State.reset.setI 0x1234#16).setReg 15 7#8)
    (fun t => (t.reg 15, t.pc, t.faulted)) = some (0#8, 0x0202#16, false) := by decide

theorem test_drw_out_of_range : after (.drw 1 2 2#4) (State.reset.setI 0x0FFF#16) faultRow =
    some (4, 0x200, 0x1000, 0x200) := by decide

/-! ## Keys and timers (section 7 of the vectors) -/

theorem test_skp_down : after (.skp 1) ((State.reset.setReg 1 5#8).setKey 5 true) State.pc = some 0x0204#16 := by decide
theorem test_skp_index : after (.skp 1) (State.reset.setReg 1 0x15#8) faultRow = some (5, 0x200, 0x15, 0x200) := by decide
theorem test_sknp_down : after (.sknp 1) ((State.reset.setReg 1 5#8).setKey 5 true) State.pc = some 0x0202#16 := by decide
theorem test_sknp_index : after (.sknp 1) (State.reset.setReg 1 16#8) faultRow = some (5, 0x200, 0x10, 0x200) := by decide
theorem test_ldVxDt : after (.ldVxDt 3) (State.reset.setDt 0x1C#8) (·.reg 3) = some 0x1C#8 := by decide
theorem test_ldVxK : after (.ldVxK 5) State.reset (fun t => (t.waiting, t.waitReg, t.pc)) = some (true, 5, 0x0202#16) := by
  decide
theorem test_ldDtVx : after (.ldDtVx 3) (State.reset.setReg 3 60#8) State.dt = some 60#8 := by decide
theorem test_ldStVx : after (.ldStVx 3) ((State.reset.setReg 3 0#8).setSt 9#8) State.soundPort = some false := by decide

/-! ## The font (R37), checked against glyphs read off the table: 1, A and the last byte -/

theorem test_font : ((List.range 5).map fun k => memRead [] (0x005 + k)) = [0x20#8, 0x60#8, 0x20#8, 0x20#8, 0x70#8] ∧
    ((List.range 5).map fun k => memRead [] (0x032 + k)) = [0xF0#8, 0x90#8, 0xF0#8, 0x90#8, 0x90#8] ∧
    memRead [] 0x04F = 0x80#8 ∧ memRead [] 0x050 = 0#8 := by decide

/-! ## Fetch, the scheduler, reset (V-DEC-3, V-CF-3, V-SCH-1 to V-SCH-4, S13) -/

/-- T_INSTR = 2, T_TIMER = 18, as the scheduler vectors take them. -/
def vectorParams : Config.Params := { Config.Params.default with tInstr := 2, tTimer := 18 }

theorem test_fetch_at_top : (State.reset.setPc 0x0FFF#16).fetch = .error 0x1000#16 := by decide
theorem test_fetch_odd : ((withProgram [0x12#8, 0x03#8, 0x00#8, 0x6A#8, 0x2A#8]).setPc 0x0203#16).fetch = .ok 0x6A2A#16 := by
  decide

/-- V-SCH-1: pause, two steps in one iteration, unpause with no backlog. -/
theorem test_pause_step_unpause :
    afterSteps 6 { withProgram [0x60#8, 1#8, 0x61#8, 2#8, 0x62#8, 3#8, 0x63#8, 4#8, 0#8, 0#8] with
        params := vectorParams
        host := [.iterate 0 [], .iterate 1 [.pauseToggle], .iterate 4 [], .iterate 4 [.singleStep],
          .iterate 41 [.singleStep, .singleStep], .iterate 10 [.pauseToggle]] }
      (fun t => (t.reg 3, t.pc, t.halt, t.iDeadline, t.tDeadline)) = some (4#8, 0x0208#16, true, 62, 78) := by decide

/-- V-SCH-3: no catch-up. -/
theorem test_overload :
    afterSteps 4 { withProgram [0x70#8, 1#8, 0x12#8, 0x00#8] with
        params := vectorParams, host := [.iterate 0 [], .iterate 10 [], .iterate 10 [], .iterate 10 []] }
      (fun t => (t.reg 0, t.pc, t.iDeadline, t.tDeadline)) = some (2#8, 0x0200#16, 8, 36) := by decide

/-- V-SCH-4: the first press releases the wait, the second only sets its key. -/
theorem test_events_in_order :
    afterSteps 1 { (State.reset.setWaiting true).setWaitReg 2 with host := [.iterate 0 [.keyPress 4, .keyPress 9]] }
      (fun t => (t.reg 2, t.keyDown 4, t.keyDown 9)) = some (4#8, true, true) := by decide

/-- S13: a reset with the empty image, then one iteration. -/
theorem test_reset_then_halt :
    afterSteps 2 { (State.reset.setFault .decodeFault 1#16 2#16).setPc 7#16 with host := [.reset 5 [], .iterate 0 []] }
      (fun t => (t.halt, t.pc, faultRow t)) = some (true, 0x0200#16, (0, 0, 0, 0x200)) := by decide

theorem test_fetch_word_runs : afterSteps 1 (State.reset.withFetchWord 16 0x1ABC) State.pc = some 0x0ABC#16 := by decide

/-! ## Witnesses: for each statement with hypotheses, data that meets them -/

/-- EncodeOfDecode, DecodeFollowsOpcodeMap (first part). -/
theorem witness_decodes : decodeWord 0xD125#16 = .ok (.drw 1 2 5#4) := by decide

/-- DecodeOfEncode: a well-formed SYS word is the boundary of the check. -/
theorem witness_wf : Instr.wf (.sys 0x0E1#12) = true := by decide

/-- DecodeFollowsOpcodeMap (second part), with the SYS proviso met. -/
theorem witness_row : 0x00E1#16 &&& opcodeMask (.sys 0#12) = opcodeMatch (.sys 0#12) ∧
    0x00E1#16 ≠ 0x0000#16 ∧ 0x00E1#16 ≠ 0x00E0#16 ∧ 0x00E1#16 ≠ 0x00EE#16 := by decide

/-- UndefinedWordsRaiseDecodeFault: one word of each undefined family at a boundary, and a fetch of one. -/
theorem witness_undefined : UndefinedWord 0x8128#16 ∧ UndefinedWord 0x812F#16 ∧ UndefinedWord 0xE19F#16 ∧
    UndefinedWord 0xF066#16 ∧ (withProgram [0x81#8, 0x28#8]).fetch = .ok 0x8128#16 := by decide

/-- The state of the statements about a step: `6A2F` at PC and one iteration at hand. -/
def running : State := (withProgram [0x6A#8, 0x2F#8]).setHost [.iterate 0 []]

/-- StepRunsDecodedInstruction, OneInstructionPerDeadline, FirstInstructionAtProgramBase: no event, and all three kinds of
event that leave a running machine running. -/
theorem witness_keys_only : KeysOnly [] ∧ KeysOnly [.keyPress 3, .singleStep, .keyRelease 3] ∧
    (running.setHost [.iterate 0 [.keyPress 3, .singleStep, .keyRelease 3]]).Running := by decide

/-- R123: a key event of a running machine and its instruction share the iteration, the timers' countdown too. -/
theorem test_key_event_and_instruction :
    afterSteps 1 ((running.setDt 7#8).setHost [.iterate 0 [.keyPress 3]])
      (fun t => (t.keyDown 3, t.reg 0xA, t.dt)) = some (true, 0x2F#8, 6#8) := by decide

/-- V-SCH-2: the exit request stops the due instruction; the timers' countdown, due here, still runs. -/
theorem test_exit :
    afterSteps 1 ((running.setDt 5#8).setHost [.iterate 4 [.exitRequest]])
      (fun t => (t.halt, t.pc, t.dt)) = some (true, 0x0200#16, 4#8) := by decide

/-- EventsThenBothClocks: events that leave the machine dead, halted and running, and a stopped machine. -/
theorem witness_event_outcomes :
    let s := (withProgram [0x00#8, 0xEE#8]).setPaused true
    applyEvents [.singleStep, .keyPress 1] s = .next (s.raise .stackUnderflow 0#16) ∧
      (s.raise .stackUnderflow 0#16).faultCause ≠ .noFault ∧
      applyEvent (.keyPress 1) running = .next (running.setKey 1 true) ∧
      applyEvents [.exitRequest] running = .next (running.setHalt true) ∧
      applyEvents [.keyPress 1] running = .next (running.setKey 1 true) ∧ (running.setKey 1 true).Running ∧
      (running.setKey 1 true).iDeadline ≤ (running.setKey 1 true).now ∧
      (running.setHalt true).host = .iterate 0 [] :: [] ∧ (running.setHalt true).halt = true :=
  ⟨rfl, by decide, rfl, rfl, rfl, by decide, by decide, rfl, rfl⟩

/-- StepRunsDecodedInstruction. -/
theorem witness_step_runs : running.host = .iterate 0 [] :: [] ∧ running.Running ∧
    running.iDeadline ≤ running.now + 0 ∧ running.canAccess (running.pc.toNat + 1) ∧
    decodeBytes (running.loadByte running.pc.toNat) (running.loadByte (running.pc.toNat + 1)) =
      .ok (.ldImm 0xA 0x2F#8) := by decide

/-- ExecuteOneFetchesBigEndian: both sides of the bound. -/
theorem witness_fetch_bound : (State.reset.setPc 0x0FFE#16).canAccess 0xFFF ∧ ¬ (State.reset.setPc 0x0FFF#16).canAccess 0x1000 ∧
    (0x6A2F#16).toNat = (running.loadByte 0x200).toNat * 256 + (running.loadByte 0x201).toNat := by decide

/-- RandomMasksPortByte: a listed byte, and an empty list. -/
theorem witness_random : (State.reset.setRnd [0xB7#8] 0).rnd = 0xB7#8 :: [] ∧ State.reset.rnd = [] := by decide

/-- HaltOnZeroWord: a running machine at the zero word, and a halted one. -/
theorem witness_zero_word :
    let s := State.reset.setHost [.iterate 0 []]
    let h := (State.reset.setHalt true).setHost [.iterate 3 [.keyPress 1]]
    s.host = .iterate 0 [] :: [] ∧ s.Running ∧ s.iDeadline ≤ s.now + 0 ∧ s.canAccess (s.pc.toNat + 1) ∧
      s.loadByte s.pc.toNat = 0#8 ∧ s.loadByte (s.pc.toNat + 1) = 0#8 ∧ h.halt = true ∧
      h.host = .iterate 3 [.keyPress 1] :: [] := by decide

/-- SysByPolicy: both policies. -/
theorem witness_sys : State.reset.params.sysPolicy = .fault ∧
    ({ State.reset with params := { Config.Params.default with sysPolicy := .nop } } : State).params.sysPolicy = .nop := by
  decide

/-- ReturnPopsAndAddsTwo, CallPushesItsOwnAddress, ReturnComesBackFromCall: depths 0, 15 and 16. -/
theorem witness_stack : (State.reset.setSp 16).sp.val = (15 : Fin 16).val + 1 ∧ State.reset.sp.val = 0 ∧
    (State.reset.setSp 15).sp.val = (15 : Fin 16).val ∧ (State.reset.setSp 16).sp.val = 16 := by decide

/-- EachInstructionWritesPcByItsClass, EachHandlerRaisesItsOwnFault, EveryPieceHasItsWriters: an instruction that
completes and one that faults. -/
theorem witness_exec : State.reset.faultCause = .noFault ∧ exec (.jp 0#12) State.reset = .next (State.reset.setPc 0#16) ∧
    exec .ret State.reset = .next (State.reset.raise .stackUnderflow 0#16) := ⟨rfl, rfl, rfl⟩

/-- EachHandlerRaisesItsOwnFault: each cause is met (FaultsArePrecise: the fetch of a faulting word). -/
theorem witness_causes :
    after (.sys 1#12) State.reset State.faultCause = some .decodeFault ∧
    after .ret State.reset State.faultCause = some .stackUnderflow ∧
    after (.call 0#12) (State.reset.setSp 16) State.faultCause = some .stackOverflow ∧
    after (.ldB 0) (State.reset.setI 0xFFE#16) State.faultCause = some .addressFault ∧
    after (.skp 0) (State.reset.setReg 0 16#8) State.faultCause = some .keyIndexFault := by decide

/-- FaultsArePrecise. -/
theorem witness_precise :
    let s := withProgram [0x00#8, 0xEE#8]
    s.faultCause = .noFault ∧ executeOne s = .next (s.raise .stackUnderflow 0#16) ∧
      (s.raise .stackUnderflow 0#16).faultCause ≠ .noFault := ⟨rfl, rfl, by decide⟩

/-- BcdStore, BlockStore, BlockLoad, BlockLoadUndoesBlockStore, StoresAreFetched: canonical memory, and both sides of
the bound. -/
theorem witness_memory : Memory.wf State.reset.mem = true ∧ Memory.wf running.mem = true ∧
    (State.reset.setI 0x0FFD#16).canAccess (0xFFD + 2) ∧ ¬ (State.reset.setI 0x0FFE#16).canAccess (0xFFE + 2) ∧
    (State.reset.setI 0x0FF0#16).canAccess (0xFF0 + 15) ∧ ¬ (State.reset.setI 0x0FF1#16).canAccess (0xFF1 + 15) := by decide

/-- BlockLoadUndoesBlockStore: the state after the store itself meets the inner hypotheses. -/
theorem witness_block : after (.ldStore 1) (State.reset.setI 0x0300#16) (fun t => t.params == State.reset.params) =
    some true := by decide

/-- DrawXorsSprite, DoubleDrawRestoresDisplay: a sprite in range, one that leaves memory, and one without rows. -/
theorem witness_sprite : State.reset.canAccess (State.reset.i.toNat + ((5#4).toNat - 1)) ∧
    (2#4).toNat ≠ 0 ∧ ¬ (State.reset.setI 0x0FFF#16).canAccess (0xFFF + ((2#4).toNat - 1)) ∧ (0#4).toNat = 0 := by decide

/-- DrawXorsSprite: a covered pixel that is off, and one that is on. -/
theorem witness_covered :
    SpriteCovers State.reset 62 30 5 30 0 ∧ pixel State.reset.disp 30 0 = false ∧
    pixel (State.reset.setDisp (togglePixel clearDisplay 30 0)).disp 30 0 = true :=
  ⟨⟨0, 2, by decide, by decide, by decide, by decide, by decide⟩, by decide, by decide⟩

/-- DoubleDrawRestoresDisplay: V1 and V2 hold the coordinates after the first draw. -/
theorem witness_second_draw : after (.drw 1 2 1#4) (aluState 62#8 30#8) (fun t => (t.reg 1, t.reg 2)) =
    some (62#8, 30#8) := by decide

/-- KeySkips: key indices 15 and 16. -/
theorem witness_keys : ((State.reset.setReg 1 15#8).reg 1).toNat = (15 : Key).val ∧
    16 ≤ ((State.reset.setReg 1 16#8).reg 1).toNat := by decide

/-- DeadMachineDoesNothing, both clauses. -/
theorem witness_dead :
    let s := State.reset.setFault .addressFault 0x200#16 0x1000#16
    (s.setHost [.iterate 1 [.keyPress 0]]).faultCause ≠ .noFault ∧
      (s.setHost [.iterate 1 [.keyPress 0]]).host = .iterate 1 [.keyPress 0] :: [] ∧
      ([] : List Byte).length ≤ 3584 ∧ (s.setHost [.reset 1 []]).host = .reset 1 [] :: [] := by decide

/-- HaltedMachineRunsNothing: a live machine at an exit request. -/
theorem witness_exit :
    let s := running.setHost [.iterate 0 [.exitRequest]]
    s.faultCause = .noFault ∧ s.halt = false ∧ s.host = .iterate 0 [.exitRequest] :: [] := by decide

/-- HaltedMachineRunsNothing: the zero word's handler, a halted machine, and an event on it. -/
theorem witness_halted :
    exec .halt State.reset = .next (State.reset.setHalt true) ∧ State.reset.halt = false ∧
    (State.reset.setHalt true).halt = true ∧ State.reset.faultCause = .noFault ∧
    applyEvent (.keyRelease 3) (State.reset.setHalt true) = .next ((State.reset.setHalt true).setKey 3 false) ∧
    ((State.reset.setHalt true).setHost [.iterate 0 []]).host = .iterate 0 [] :: [] := ⟨rfl, rfl, rfl, rfl, rfl, rfl⟩

/-- PauseFreezesTheClocks: the iteration that unpauses, not waiting and waiting. -/
theorem witness_unpausing :
    let s := (running.setPaused true).setHost [.iterate 9 [.pauseToggle]]
    s.paused = true ∧ s.halt = false ∧ s.faultCause = .noFault ∧ s.host = .iterate 9 [.pauseToggle] :: [] ∧
      s.waiting = false ∧ (s.setWaiting true).waiting = true ∧
      (s.setHost [.iterate 9 [.keyPress 3]]).host = .iterate 9 [.keyPress 3] :: [] ∧
      (s.setHost [.iterate 9 [.keyRelease 3]]).host = .iterate 9 [.keyRelease 3] :: [] := by decide

/-- PauseFreezesTheClocks: of the instruction in that iteration, one that completes and one that faults. -/
theorem witness_unpausing_fault :
    afterSteps 1 ((running.setPaused true).setHost [.iterate 9 [.pauseToggle]])
      (fun t => (t.reg 0xA, t.faulted, t.iDeadline, t.tDeadline)) = some (0x2F#8, false, 1859, 16676) ∧
    afterSteps 1 (((withProgram [0x00#8, 0xEE#8]).setPaused true).setHost [.iterate 9 [.pauseToggle]])
      (fun t => (t.faultCause, t.iDeadline, t.tDeadline)) = some (.stackUnderflow, 1859, 9) := by decide

/-- OneInstructionPerDeadline: one unit before the deadline, and at it. -/
theorem witness_deadline :
    let s := (running.setIDeadline 5).setHost [.iterate 4 []]
    s.Running ∧ s.host = .iterate 4 [] :: [] ∧ s.now + 4 < s.iDeadline ∧
      ((s.setHost [.iterate 5 []]).host = .iterate 5 [] :: [] ∧ s.iDeadline ≤ s.now + 5) := by decide

/-- InputEventsApplied, PauseFreezesTheClocks: waiting and not, paused and not, a step honoured and one ignored. -/
theorem witness_events :
    (State.reset.setWaiting true).waiting = true ∧ State.reset.waiting = false ∧
    ((State.reset.setPaused true).paused = true ∧ (State.reset.setPaused true).waiting = false ∧
      (State.reset.setPaused true).halt = false) ∧
    ¬ (State.reset.paused = true ∧ State.reset.waiting = false ∧ State.reset.halt = false) ∧
    State.reset.paused = false ∧
    ((State.reset.setPaused true).setHost [.iterate 9 []]).host = .iterate 9 [] :: [] := by decide

/-- TimersCountDownToZero: due at the deadline itself, one unit before it, and paused. -/
theorem witness_timers : State.reset.paused = false ∧ State.reset.tDeadline ≤ State.reset.now ∧
    ((State.reset.setPaused true).paused = true ∨ State.reset.now < State.reset.tDeadline) ∧
    (State.reset.setTDeadline 1).now < (State.reset.setTDeadline 1).tDeadline := by decide

/-- WaitingSuspendsInstructions: each clause. -/
theorem witness_waiting :
    let s := State.reset.setWaiting true
    s.waiting = true ∧ (s.setHost [.iterate 2 []]).host = .iterate 2 [] :: [] ∧
      applyEvent (.keyPress 7) s = .next (((s.setKey 7 true).setReg 0 7#8).setWaiting false) ∧
      (((s.setKey 7 true).setReg 0 7#8).setWaiting false).waiting = false ∧ s.paused = false ∧ s.halt = false ∧
      s.faultCause = .noFault ∧ (s.setHost [.iterate 2 [.keyPress 7]]).host = .iterate 2 [.keyPress 7] :: [] ∧
      s.iDeadline ≤ s.now + 2 := ⟨rfl, rfl, rfl, rfl, rfl, rfl, rfl, rfl, by decide⟩

/-- ResetBuildsTheMachine, FirstInstructionAtProgramBase, and both clauses of OversizeImageRefused: an image at the
largest length and one byte longer. -/
theorem witness_reset :
    (State.reset.setHost [.reset 1 [0x6A#8, 0x2F#8], .iterate 0 []]).host =
      .reset 1 [0x6A#8, 0x2F#8] :: .iterate 0 [] :: [] ∧
    ([0x6A#8, 0x2F#8] : List Byte).length ≤ 3584 ∧ (List.replicate 3584 0#8).length ≤ 3584 ∧
    3584 < (List.replicate 3585 0#8).length ∧
    decodeBytes (memRead (loadImage 0x200 [0x6A#8, 0x2F#8] []) 0x200) (memRead (loadImage 0x200 [0x6A#8, 0x2F#8] []) 0x201) =
      .ok (.ldImm 0xA 0x2F#8) := ⟨rfl, by decide, le_of_eq List.length_replicate, by rw [List.length_replicate]; decide, by decide⟩

/-- StepKeepsInvariant, StepKeepsParameters: a state that meets the invariant and its next state. -/
theorem witness_invariant : State.Inv running :=
  ⟨by decide, by decide, by decide, by decide, by decide, fun _ => ⟨rfl, rfl⟩, fun h => absurd rfl h, fun h => h.1 rfl⟩

theorem witness_step : afterSteps 1 running (·.reg 0xA) = some 0x2F#8 := by decide

/-- TimedRunsAreUntimedRuns. -/
theorem witness_iteration : running.stopped = false ∧ iterate 0 [] (State.reset.setPaused true) =
    .next ((State.reset.setPaused true).setNow 0) ∧ (State.reset.setPaused true).stopped = false := ⟨rfl, rfl, rfl⟩

end Sys2Proof.Tests
end

section
/-! SUPPORT and PROOFS. Control transfer (spec/40_control_flow.md): what each control instruction answers, where every
instruction leaves PC (R70), the step that executes a word, and the statements of that family. -/

namespace Sys2Proof.Machine

/-! ## Operands as numbers (R48) -/

@[simp] theorem addressOperand_toNat (nnn : Addr12) : (addressOperand nnn).toNat = nnn.toNat :=
  BitVec.toNat_setWidth_of_le (by decide)

theorem addressOperand_eq_ofNat (nnn : Addr12) : addressOperand nnn = BitVec.ofNat 16 nnn.toNat :=
  (BitVec.ofNat_toNat 16 nnn).symm

@[simp] theorem wordOperand_toNat (b : Byte) : (wordOperand b).toNat = b.toNat :=
  BitVec.toNat_setWidth_of_le (by decide)

/-- JP V0's target does not wrap: it is at most 4095 + 255 (R69). -/
theorem addressOperand_add_wordOperand_toNat (nnn : Addr12) (b : Byte) :
    (addressOperand nnn + wordOperand b).toNat = nnn.toNat + b.toNat := by
  have := nnn.isLt
  have := b.isLt
  rw [BitVec.toNat_add, addressOperand_toNat, wordOperand_toNat]
  omega

/-- The word of SYS nnn is nnn with a zero family nibble (R61). -/
theorem encode_sys (nnn : Addr12) : encode (.sys nnn) = addressOperand nnn :=
  BitVec.eq_of_toNat_eq (by simp [encode, encodeA_toNat])

/-- A key operand that is a key index is the number itself (R97). -/
theorem keyOperand_eq_some {b : Byte} {k : Key} (h : keyOperand b = some k) : k.val = b.toNat := by
  unfold keyOperand at h
  split at h <;> cases h
  rfl

theorem getD_toList_eq_getElem {α : Type} {n : Nat} (v : Vector α n) (d : α) {j : Nat} (h : j < n) :
    v.toList.getD j d = v[j] := by
  rw [List.getD_eq_getElem _ _ (by simpa using h), Vector.getElem_toList]

/-! ## The program counter and the call stack -/

variable (s : State)

@[simp] theorem State.skipIf_pc (c : Bool) : (s.skipIf c).pc = if c then s.pc + 4#16 else s.pc + 2#16 := by
  rw [State.skipIf_eq, State.setPc_pc]

theorem changes_skipIf (c : Bool) : ChangesOnly (· = .pc) s (s.skipIf c) := by
  rw [State.skipIf_eq]
  exact changes_setPc s _

/-- The pop at depth j + 1 answers entry j and lowers SP to j (R62). -/
theorem State.pop?_of_sp_eq_succ {s : State} {j : Fin 16} (h : s.sp.val = j.val + 1) :
    s.pop? = some (s.stack[j.val], s.setSp j.castSucc) := by
  simp [State.pop?, h, Fin.castSucc, Fin.castAdd, Fin.castLE]

/-- The push at depth j below 16 writes entry j and raises SP to j + 1 (R64). -/
theorem State.push?_of_sp_eq {s : State} {j : Fin 16} (h : s.sp.val = j.val) (w : Word) :
    s.push? w = some ((s.setStack j w).setSp j.succ) := by
  simp [State.push?, h, Fin.succ]

/-! ## What the control instructions answer -/

theorem exec_halt : exec .halt s = .next (s.setHalt true) := rfl

theorem exec_sys_of_fault {s : State} (nnn : Addr12) (h : s.params.sysPolicy = .fault) :
    exec (.sys nnn) s = .next (s.raise .decodeFault (addressOperand nnn)) := by
  simp [exec, execSys, h]

theorem exec_sys_of_nop {s : State} (nnn : Addr12) (h : s.params.sysPolicy = .nop) :
    exec (.sys nnn) s = .next s.advance := by
  simp [exec, execSys, h]

theorem exec_ret_of_sp_eq_succ {s : State} {j : Fin 16} (h : s.sp.val = j.val + 1) :
    exec .ret s = .next ((s.setSp j.castSucc).setPc (s.stack[j.val] + 2#16)) := by
  simp [exec, execRet, State.pop?_of_sp_eq_succ h]

theorem exec_ret_of_empty {s : State} (h : s.sp = 0) : exec .ret s = .next (s.raise .stackUnderflow 0#16) := by
  simp [exec, execRet, s.pop?_eq_none.mpr h]

theorem exec_call_of_sp_eq {s : State} {j : Fin 16} (nnn : Addr12) (h : s.sp.val = j.val) :
    exec (.call nnn) s = .next (((s.setStack j s.pc).setSp j.succ).setPc (addressOperand nnn)) := by
  simp [exec, execCall, State.push?_of_sp_eq h]

theorem exec_call_of_full {s : State} (nnn : Addr12) (h : s.sp = 16) :
    exec (.call nnn) s = .next (s.raise .stackOverflow 0#16) := by
  simp [exec, execCall, (s.push?_eq_none s.pc).mpr h]

/-! ## Where an execution leaves PC (R70) -/

/-- The execution that leads from s to t completed without a fault of its own and left PC at w, or it raised a fault and
left PC alone (R70, R118). -/
def LeavesPcAt (w : Word) (s t : State) : Prop :=
  (t.faultCause = s.faultCause ∧ t.pc = w) ∨ (t.faultCause ≠ .noFault ∧ t.pc = s.pc)

/-- From a state without a fault, the recorded cause tells the two apart. -/
theorem LeavesPcAt.pc_eq {w : Word} {s t : State} (h : LeavesPcAt w s t) (hs : s.faultCause = .noFault) :
    t.pc = if t.faultCause = .noFault then w else s.pc := by
  rcases h with ⟨hf, hpc⟩ | ⟨hf, hpc⟩
  · rw [hpc, if_pos (hf.trans hs)]
  · rw [hpc, if_neg hf]

theorem LeavesPcAt.of_raise (w : Word) {c : FaultCause} (info : Word) (hc : c ≠ .noFault) :
    LeavesPcAt w s (s.raise c info) :=
  .inr ⟨hc, rfl⟩

theorem LeavesPcAt.of_skipIf {w : Word} {c : Bool} (h : w = if c then s.pc + 4#16 else s.pc + 2#16) :
    LeavesPcAt w s (s.skipIf c) :=
  .inl ⟨by rw [State.skipIf_eq]; rfl, by rw [State.skipIf_pc, h]⟩

/-- A key skip looks at the key that the byte names, where it names one (R97, R98). -/
theorem LeavesPcAt.of_skipOnKey (b : Byte) (down : Bool) :
    LeavesPcAt (if s.key.toList.getD b.toNat false = down then s.pc + 4#16 else s.pc + 2#16) s
      (s.skipOnKey b down) := by
  cases hk : keyOperand b with
  | none => rw [State.skipOnKey, hk]; exact .of_raise s _ _ (by decide)
  | some k =>
    rw [State.skipOnKey, hk]
    refine .of_skipIf s ?_
    rw [← keyOperand_eq_some hk, getD_toList_eq_getElem _ _ k.isLt]
    simp only [State.keyDown, beq_iff_eq]

theorem LeavesPcAt.of_accessing {w : Word} {s done : State} (base n : Nat) (h : LeavesPcAt w s done) :
    LeavesPcAt w s (s.accessing base n done) := by
  rcases s.accessing_cases base n done with ⟨_, e⟩ | ⟨a, _, e⟩ <;> rw [e]
  · exact h
  · exact .of_raise s _ _ (by decide)

/-- Every instruction leaves PC where the table of R70 says. -/
theorem exec_leavesPcAt {i : Instr} {s t : State} (h : exec i s = .next t) : LeavesPcAt (pcAfter i s) s t := by
  cases i with
  | sys nnn =>
    cases hp : s.params.sysPolicy with
    | fault => rw [exec_sys_of_fault nnn hp] at h; cases h; exact .of_raise s _ _ (by decide)
    | nop => rw [exec_sys_of_nop nnn hp] at h; cases h; exact .inl ⟨rfl, rfl⟩
  | ret =>
    by_cases hs : s.sp = 0
    · rw [exec_ret_of_empty hs] at h; cases h; exact .of_raise s _ _ (by decide)
    · obtain ⟨j, hj⟩ := Fin.exists_succ_eq.mpr hs
      have hj : s.sp.val = j.val + 1 := by rw [← hj]; rfl
      rw [exec_ret_of_sp_eq_succ hj] at h; cases h
      refine .inl ⟨rfl, ?_⟩
      simp only [State.setPc_pc, pcAfter, hj, Nat.add_sub_cancel, getD_toList_eq_getElem s.stack 0#16 j.isLt]
  | call nnn =>
    by_cases hs : s.sp = 16
    · rw [exec_call_of_full nnn hs] at h; cases h; exact .of_raise s _ _ (by decide)
    · have hj : s.sp.val < 16 := by have := s.sp.isLt; have := Fin.val_ne_of_ne hs; omega
      rw [exec_call_of_sp_eq (j := ⟨s.sp.val, hj⟩) nnn rfl] at h; cases h
      exact .inl ⟨rfl, addressOperand_eq_ofNat nnn⟩
  | jp nnn => cases h; exact .inl ⟨rfl, addressOperand_eq_ofNat nnn⟩
  | jpV0 nnn =>
    cases h
    refine .inl ⟨rfl, ?_⟩
    rw [State.setPc_pc, pcAfter, ← addressOperand_add_wordOperand_toNat, BitVec.ofNat_toNat, BitVec.setWidth_eq]
  | seImm | sneImm | seReg | sneReg => cases h; exact .of_skipIf s (by simp [pcAfter])
  | skp | sknp => cases h; exact .of_skipOnKey s _ _
  | addReg | subReg | shrReg | subnReg | shlReg =>
    cases h; rw [State.writeResultAndFlag_eq]; exact .inl ⟨rfl, rfl⟩
  | rnd => cases h; rw [State.afterDraw_eq]; exact .inl ⟨rfl, rfl⟩
  | ldB => cases h; rw [storeBytes_eq]; exact .of_accessing _ _ (.inl ⟨rfl, rfl⟩)
  | ldStore => cases h; rw [storeRegs_eq]; exact .of_accessing _ _ (.inl ⟨rfl, rfl⟩)
  | ldLoad => cases h; rw [loadRegs_eq]; exact .of_accessing _ _ (.inl ⟨rfl, rfl⟩)
  | drw => cases h; exact .of_accessing _ _ (.inl ⟨rfl, rfl⟩)
  | halt | cls | ldImm | addImm | ldReg | orReg | andReg | xorReg | ldI | addI | ldF | ldVxDt | ldVxK | ldDtVx
  | ldStVx => cases h; exact .inl ⟨rfl, rfl⟩

/-! ## The step that executes the word at PC (R45, R123) -/

/-- A fetch within memory is the two bytes at PC, the first one the high byte (R31, R32). -/
theorem State.fetch_of_canAccess {s : State} (h : s.canAccess (s.pc.toNat + 1)) :
    s.fetch = .ok (composeWord (s.loadByte s.pc.toNat) (s.loadByte (s.pc.toNat + 1))) := by
  have hin : s.params.addrPolicy = .wrap4096 ∨ 2 = 0 ∨ s.pc.toNat + 2 ≤ Config.memSize :=
    h.imp_right fun hlt => .inr hlt
  rw [State.fetch, State.outOfRange_eq, if_pos hin]

/-- Where the bytes at PC can be fetched and decode, the engine runs their handler (R45). -/
theorem executeOne_of_decodeBytes {s : State} {i : Instr} (h : s.canAccess (s.pc.toNat + 1))
    (hd : decodeBytes (s.loadByte s.pc.toNat) (s.loadByte (s.pc.toNat + 1)) = .ok i) : executeOne s = exec i s := by
  rw [decodeBytes] at hd
  simp only [executeOne, State.fetch_of_canAccess h, hd]

theorem State.firingAfter_nil (elapsed : Nat) (rest : List HostInput) :
    s.firingAfter elapsed [] rest = s.firing elapsed rest := rfl

/-- A step of a running machine whose instruction clock is due, with events that leave it running: one execution of the
engine, then, unless it faulted, the timer phase (R123, R125). -/
theorem step_of_due {s : State} {elapsed : Nat} {events : List Event} {rest : List HostInput}
    (hhost : s.host = .iterate elapsed events :: rest) (hk : KeysOnly events) (hr : s.Running)
    (hdue : s.iDeadline ≤ s.now + elapsed) :
    step s = Result.unlessFaulted (executeOne (s.firingAfter elapsed events rest)) fun t => .next t.timerPhase := by
  obtain ⟨hfault, hhalt, hpaused, hwaiting⟩ := hr
  have hev := applyEvents_keysOnly (s := s.sampled elapsed rest) ⟨hfault, hhalt, hpaused, hwaiting⟩ hk
  have hkeys := State.afterKeys_eq events (s.sampled elapsed rest)
  have hphase : instructionPhase ((s.sampled elapsed rest).afterKeys events) =
      executeOne (s.firingAfter elapsed events rest) := by
    rw [instructionPhase, State.firingAfter, hkeys]
    exact if_pos (by simp [State.instructionDue, State.sampled, hhalt, hpaused, hwaiting, hdue])
  have hlive : ((s.sampled elapsed rest).afterKeys events).faultCause = .noFault := by rw [hkeys]; exact hfault
  rw [step_iterate hhost, iterateNow_live (s := s.sampled elapsed rest) hfault hhalt hev hlive, hphase]

/-- A step that executes the zero word sets HALT and then runs the timer phase (R60, R122). -/
theorem step_of_zero_word {s : State} {elapsed : Nat} {rest : List HostInput}
    (hhost : s.host = .iterate elapsed [] :: rest) (hr : s.Running) (hdue : s.iDeadline ≤ s.now + elapsed)
    (hacc : s.canAccess (s.pc.toNat + 1)) (hhi : s.loadByte s.pc.toNat = 0#8)
    (hlo : s.loadByte (s.pc.toNat + 1) = 0#8) :
    step s = .next (((s.firing elapsed rest).setHalt true).timerPhase) := by
  have hdec : decodeBytes (s.loadByte s.pc.toNat) (s.loadByte (s.pc.toNat + 1)) = .ok .halt := by
    rw [hhi, hlo]; decide
  have hexec : executeOne (s.firing elapsed rest) = .next ((s.firing elapsed rest).setHalt true) :=
    executeOne_of_decodeBytes (s := s.firing elapsed rest) hacc hdec
  have hlive : ((s.firing elapsed rest).setHalt true).faulted = false := (State.faulted_eq_false_iff _).mpr hr.1
  have hnone : KeysOnly [] := ⟨List.not_mem_nil, List.not_mem_nil⟩
  rw [step_of_due hhost hnone hr hdue, State.firingAfter_nil, hexec, Result.unlessFaulted_next, hlive,
    if_neg Bool.false_ne_true]

/-- A step of a halted machine samples the time and takes the action off the host's list, no more (R122). -/
theorem step_of_halt {s : State} {elapsed : Nat} {events : List Event} {rest : List HostInput} (hhalt : s.halt = true)
    (hhost : s.host = .iterate elapsed events :: rest) : step s = .next (s.sampled elapsed rest) := by
  rw [step_iterate hhost, iterateNow_stopped]
  simp [State.stopped, State.sampled, hhalt]

theorem changes_sampled (elapsed : Nat) (rest : List HostInput) :
    ChangesOnly (fun q => q = .now ∨ q = .host) s (s.sampled elapsed rest) :=
  ((changes_setHost s rest).append (changes_setNow _ _)).mono fun _ => Or.symm

/-! ## The statements -/

/-- Settles O17: the handler, the halting step and the halted machine's step, each by its own lemma. -/
theorem haltOnZeroWord : Obligations.HaltOnZeroWord := by
  refine ⟨fun s => ⟨_, exec_halt s, rfl, changes_setHalt s true⟩, ?_, ?_⟩
  · intro s elapsed rest hhost hr hdue hacc hhi hlo
    exact step_of_zero_word hhost hr hdue hacc hhi hlo
  · intro s elapsed events rest hhalt hhost
    exact ⟨_, step_of_halt hhalt hhost, changes_sampled s elapsed rest⟩

/-- Settles O19: the pop at depth j + 1, and the fault at depth 0. -/
theorem returnPopsAndAddsTwo : Obligations.ReturnPopsAndAddsTwo := by
  intro s
  constructor
  · intro j hj
    exact ⟨_, exec_ret_of_sp_eq_succ hj, rfl, rfl, (changes_setSp s _).append (changes_setPc _ _)⟩
  · intro h0
    exact ⟨_, exec_ret_of_empty (Fin.ext h0), raise_raisedFault s _ _⟩

/-- Settles O21: the push at depth j, and the fault at depth 16. -/
theorem callPushesItsOwnAddress : Obligations.CallPushesItsOwnAddress := by
  intro nnn s
  constructor
  · intro j hj
    refine ⟨_, exec_call_of_sp_eq nnn hj, by simp, rfl, addressOperand_toNat nnn, ?_⟩
    exact (changes_setStack s j s.pc).append ((changes_setSp _ _).append (changes_setPc _ _))
  · intro h16
    exact ⟨_, exec_call_of_full nnn (Fin.ext h16), raise_raisedFault s _ _⟩

/-- Settles O24: every instruction leaves PC at R70's value or raises a fault, and the recorded cause tells which. -/
theorem eachInstructionWritesPcByItsClass : Obligations.EachInstructionWritesPcByItsClass :=
  fun _ _ _ hs h => (exec_leavesPcAt h).pc_eq hs

/-- Settles O18: the two policies; the fault's info is the instruction's own word. -/
theorem sysByPolicy : Obligations.SysByPolicy := by
  intro nnn s
  constructor
  · intro h
    rw [encode_sys]
    exact ⟨_, exec_sys_of_fault nnn h, raise_raisedFault s _ _⟩
  · intro h
    exact ⟨_, exec_sys_of_nop nnn h, rfl, changes_setPc s _⟩

/-- Settles O20: both jumps write PC alone, and neither target wraps. -/
theorem jumpsGoToTarget : Obligations.JumpsGoToTarget := fun nnn s =>
  ⟨⟨_, rfl, addressOperand_toNat nnn, changes_setPc s _⟩,
    ⟨_, rfl, addressOperand_add_wordOperand_toNat nnn (s.reg v0), changes_setPc s _⟩⟩

/-- Settles O23: each of the four is one `skipIf` on its condition. -/
theorem comparisonSkips : Obligations.ComparisonSkips := by
  intro x y nn low s
  refine ⟨⟨_, rfl, ?_, changes_skipIf s _⟩, ⟨_, rfl, ?_, changes_skipIf s _⟩, ⟨_, rfl, ?_, changes_skipIf s _⟩,
    ⟨_, rfl, ?_, changes_skipIf s _⟩⟩
  all_goals simp

end Sys2Proof.Machine
end

section
/-! SUPPORT and PROOFS. Register and ALU instructions (spec/41_alu.md): what one register write, a result with its flag
and a draw leave behind once PC has gone on, the arithmetic of the results and flags, and the statements of that
family. -/

namespace Sys2Proof.Machine

section
variable (s : State)

/-! ## Going on at PC + 2 (R70) -/

@[simp] theorem State.reg_advance (x : Reg) : s.advance.reg x = s.reg x := rfl

@[simp] theorem State.advance_pc : s.advance.pc = s.pc + 2#16 := rfl

theorem changes_advance : ChangesOnly (· = .pc) s s.advance := changes_setPc s _

/-! ## One register written (R72 to R77) -/

theorem reg_setReg_advance (x : Reg) (b : Byte) : (s.setReg x b).advance.reg x = b := by simp

/-- PC goes on, and nothing but V[x] and PC has changed: VF is not written as a flag. -/
theorem setReg_advance_frame (x : Reg) (b : Byte) :
    (s.setReg x b).advance.pc = s.pc + 2#16 ∧
      ChangesOnly (fun q => q = .reg x ∨ q = .pc) s (s.setReg x b).advance :=
  ⟨rfl, (changes_setReg s x b).append (changes_advance _)⟩

/-! ## A result and its flag written (R84) -/

@[simp] theorem State.writeResultAndFlag_pc (x : Reg) (r f : Byte) : (s.writeResultAndFlag x r f).pc = s.pc := by
  rw [State.writeResultAndFlag_eq]

/-- The two writes leave the result and the flag where R84 says, for x = 15 in the order of `VF_ORDER`. -/
theorem writeResultAndFlag_resultAndFlag (x : Reg) (r f : Byte) :
    ResultAndFlag x r.toNat f.toNat s (s.writeResultAndFlag x r f).advance := by
  constructor
  · intro hx
    simp [State.reg_writeResultAndFlag, hx]
  · rintro rfl
    cases hv : s.params.vfOrder <;> simp [State.reg_writeResultAndFlag, hv]

/-- What a flag-writing instruction leaves behind, with its result and its flag given as numbers. -/
theorem writeResultAndFlag_advance {r f : Byte} {res flag : Nat} (x : Reg) (hr : r.toNat = res)
    (hf : f.toNat = flag) :
    ResultAndFlag x res flag s (s.writeResultAndFlag x r f).advance ∧
      (s.writeResultAndFlag x r f).advance.pc = s.pc + 2#16 ∧
      ChangesOnly (fun q => q = .reg x ∨ q = .reg vf ∨ q = .pc) s (s.writeResultAndFlag x r f).advance := by
  subst hr hf
  refine ⟨writeResultAndFlag_resultAndFlag s x r f, by simp, ?_⟩
  exact ((changes_writeResultAndFlag s x r f).append (changes_advance _)).mono fun _ => or_assoc.mp

/-! ## A draw from the random port (R83, R134) -/

theorem State.rand8_of_listed {s : State} {b : Byte} {bs : List Byte} (h : s.rnd = b :: bs) : s.rand8 = b := by
  simp [State.rand8, h]

theorem State.rand8_of_empty {s : State} (h : s.rnd = []) : s.rand8 = Config.rndByte s.draws := by
  simp [State.rand8, h]

theorem State.afterDraw_of_listed {s : State} {b : Byte} {bs : List Byte} (h : s.rnd = b :: bs) :
    s.afterDraw = s.setRnd bs s.draws := by
  simp [State.afterDraw, h]

theorem State.afterDraw_of_empty {s : State} (h : s.rnd = []) : s.afterDraw = s.setRnd [] (s.draws + 1) := by
  simp [State.afterDraw, h]

@[simp] theorem State.afterDraw_pc : s.afterDraw.pc = s.pc := by rw [State.afterDraw_eq, State.setRnd_pc]

theorem changes_afterDraw : ChangesOnly (· = .randomPort) s s.afterDraw := by
  rw [State.afterDraw_eq]
  exact changes_setRnd s _ _

end

/-! ## Results and flags as numbers (R78 to R81) -/

theorem flagOf_toNat (c : Bool) : (flagOf c).toNat = if c then 1 else 0 := by cases c <;> rfl

theorem addFlag_toNat (a b : Byte) : (addFlag a b).toNat = if a.toNat + b.toNat < 256 then 1 else 0 := by
  simp [addFlag, flagOf_toNat]

theorem subFlag_toNat (a b : Byte) : (subFlag a b).toNat = if b.toNat ≤ a.toNat then 1 else 0 := by
  simp [subFlag, flagOf_toNat]

theorem byte_sub_toNat (a b : Byte) : (a - b).toNat = (a.toNat + 256 - b.toNat) % 256 := by
  have := b.isLt
  rw [BitVec.toNat_sub]
  omega

theorem byte_ushiftRight_one_toNat (a : Byte) : (a >>> 1).toNat = a.toNat / 2 := by
  rw [BitVec.toNat_ushiftRight, Nat.shiftRight_eq_div_pow, Nat.pow_one]

theorem shrFlag_toNat (a : Byte) : (shrFlag a).toNat = a.toNat % 2 := by
  rw [shrFlag, BitVec.toNat_and]
  exact Nat.and_one_is_mod _

/-! ## The statements -/

/-- Settles O12: the sum and the inverted flag, written in the order of `VF_ORDER`. -/
theorem addRegistersInvertedFlag : Obligations.AddRegistersInvertedFlag := fun x _ s =>
  ⟨_, rfl, writeResultAndFlag_advance s x (BitVec.toNat_add _ _) (addFlag_toNat _ _)⟩

/-- Settles O13: SUB and SUBN are the same difference and borrow flag, with the operands exchanged. -/
theorem subtractBorrowFlag : Obligations.SubtractBorrowFlag := fun x _ s =>
  ⟨⟨_, rfl, writeResultAndFlag_advance s x (byte_sub_toNat _ _) (subFlag_toNat _ _)⟩,
    ⟨_, rfl, writeResultAndFlag_advance s x (byte_sub_toNat _ _) (subFlag_toNat _ _)⟩⟩

/-- Settles O14: the half and the old bit 0 of V[x]; y stands in neither. -/
theorem shiftRightSingleRegister : Obligations.ShiftRightSingleRegister := fun x _ s =>
  ⟨_, rfl, writeResultAndFlag_advance s x (byte_ushiftRight_one_toNat _) (shrFlag_toNat _)⟩

/-- Settles O9: each load is one register write. -/
theorem loadsWriteTheirDestination : Obligations.LoadsWriteTheirDestination := fun x y nn s =>
  ⟨⟨_, rfl, reg_setReg_advance s x nn, setReg_advance_frame s x nn⟩,
    ⟨_, rfl, reg_setReg_advance s x (s.reg y), setReg_advance_frame s x _⟩,
    ⟨_, rfl, reg_setReg_advance s x s.dt, setReg_advance_frame s x _⟩⟩

/-- Settles O10: the byte sum wraps, and it is the one register write. -/
theorem addImmediateWraps : Obligations.AddImmediateWraps := by
  intro x nn s
  refine ⟨_, rfl, ?_, setReg_advance_frame s x _⟩
  rw [reg_setReg_advance, BitVec.toNat_add]

/-- Settles O11: each is one register write, of a byte whose bits are those of the old operands combined. -/
theorem logicalOperationsBitByBit : Obligations.LogicalOperationsBitByBit := by
  intro x y s
  refine ⟨⟨_, rfl, fun k => ?_, setReg_advance_frame s x _⟩, ⟨_, rfl, fun k => ?_, setReg_advance_frame s x _⟩,
    ⟨_, rfl, fun k => ?_, setReg_advance_frame s x _⟩⟩
  · rw [reg_setReg_advance, BitVec.getLsbD_or]
  · rw [reg_setReg_advance, BitVec.getLsbD_and]
  · rw [reg_setReg_advance, BitVec.getLsbD_xor]

/-- Settles O16: the draw moves the port on, and V[x] gets its byte masked with nn. -/
theorem randomMasksPortByte : Obligations.RandomMasksPortByte := by
  intro x nn s
  refine ⟨_, rfl, ?_, ?_, ?_, ?_, ?_⟩
  · intro b bs h
    rw [reg_setReg_advance, State.rand8_of_listed h, State.afterDraw_of_listed h]
    exact ⟨rfl, rfl, rfl⟩
  · intro h
    rw [reg_setReg_advance, State.rand8_of_empty h, State.afterDraw_of_empty h]
    exact ⟨rfl, rfl, rfl⟩
  · intro k hk
    rw [reg_setReg_advance, BitVec.getLsbD_and, Bool.and_eq_true] at hk
    exact hk.2
  · simp
  · refine ((changes_afterDraw s).append ((changes_setReg _ x _).append (changes_advance _))).mono ?_
    rintro q (h | h | h)
    · exact .inr (.inr h)
    · exact .inl h
    · exact .inr (.inl h)

end Sys2Proof.Machine
end

section
/-! SUPPORT and PROOFS. Address register and memory (spec/42_memory_index.md): what an access within and beyond memory
answers, what the bytes read as after a sequence of stores, and the statements of that family. -/

namespace Sys2Proof.Machine

/-! ## The bounds check, by the last byte touched (R32, R115) -/

section
variable {s : State} {base n : Nat}

theorem State.accessing_of_canAccess (done : State) (h : s.canAccess (base + n)) :
    s.accessing base (n + 1) done = done := by
  have hin : s.params.addrPolicy = .wrap4096 ∨ n + 1 = 0 ∨ base + (n + 1) ≤ Config.memSize :=
    h.imp_right fun hlt => .inr hlt
  rw [State.accessing, State.outOfRange_eq, if_pos hin]

theorem State.accessing_of_not_canAccess (done : State) (h : ¬ s.canAccess (base + n)) :
    s.accessing base (n + 1) done = s.raise .addressFault (BitVec.ofNat 16 (max base 4096)) := by
  have hout : ¬ (s.params.addrPolicy = .wrap4096 ∨ n + 1 = 0 ∨ base + (n + 1) ≤ Config.memSize) := fun hin =>
    h (hin.imp_right fun hle => hle.resolve_left n.succ_ne_zero)
  rw [State.accessing, State.outOfRange_eq, if_neg hout]
  rfl

/-- An instruction that is one access to n + 1 bytes has the effect of that access where the last byte can be accessed;
else it raises AddressFault and has none. -/
theorem exec_accessing {i : Instr} {done : State} {P : State → Prop}
    (hexec : exec i s = .next (s.accessing base (n + 1) done)) (hdone : P done) :
    (s.canAccess (base + n) → ∃ t, exec i s = .next t ∧ P t) ∧
    (¬ s.canAccess (base + n) → ∃ t, exec i s = .next t ∧
      RaisedFault .addressFault (BitVec.ofNat 16 (max base 4096)) s t) := by
  rw [hexec]
  constructor
  · intro h
    exact ⟨done, by rw [State.accessing_of_canAccess done h], hdone⟩
  · intro h
    exact ⟨_, by rw [State.accessing_of_not_canAccess done h], raise_raisedFault s _ _⟩

end

/-! ## What the bytes read as after a sequence of stores -/

/-- The bytes of an access no longer than memory have indices of their own, under `wrap4096` too (R32). -/
theorem memIndex_add_inj {base j k : Nat} (hj : j < 4096) (hk : k < 4096)
    (h : memIndex (base + j) = memIndex (base + k)) : j = k :=
  Nat.ModEq.eq_of_lt_of_lt (Nat.ModEq.add_left_cancel' base h) hj hk

/-- Each byte of the list ends at its own offset: the later stores leave it alone (R90). -/
theorem memRead_storeBytes (bs : List Byte) (base k : Nat) (s : State) (hwf : Memory.wf s.mem = true)
    (hlen : bs.length ≤ 4096) (hk : k < bs.length) :
    memRead (storeBytes base bs s).mem (memIndex (base + k)) = bs[k] := by
  induction bs generalizing base k s with
  | nil => exact absurd hk (Nat.not_lt_zero k)
  | cons b bs ih =>
    have hwf' := storeByte_wf s base b hwf
    rw [List.length_cons] at hlen hk
    cases k with
    | zero =>
      have hlater : ¬ ∃ j, j < bs.length ∧ Piece.byte (memIndex base) = .byte (memIndex (base + 1 + j)) := by
        rintro ⟨j, hj, e⟩
        have hidx : memIndex (base + 0) = memIndex (base + (1 + j)) := by
          rw [← Nat.add_assoc]; exact Piece.byte.inj e
        have := memIndex_add_inj (by omega) (by omega) hidx
        omega
      calc memRead (storeBytes (base + 1) bs (s.storeByte base b)).mem (memIndex base)
          = memRead (s.storeByte base b).mem (memIndex base) := changes_storeBytes (base + 1) bs _ hwf' _ hlater
        _ = b := by rw [memRead_storeByte s base _ b hwf, if_pos rfl]
    | succ k =>
      have hoff : base + (k + 1) = base + 1 + k := by omega
      rw [storeBytes, hoff, List.getElem_cons_succ]
      exact ih (base + 1) k _ hwf' (by omega) (by omega)

/-- Each listed register ends at its own offset (R91). -/
theorem memRead_storeRegs (base : Nat) (ks : List Reg) (k : Reg) (s : State) (hwf : Memory.wf s.mem = true)
    (hk : k ∈ ks) : memRead (storeRegs base ks s).mem (memIndex (base + k.val)) = s.reg k := by
  induction ks generalizing s with
  | nil => exact absurd hk List.not_mem_nil
  | cons j ks ih =>
    have hwf' := storeByte_wf s (base + j.val) (s.reg j) hwf
    rw [storeRegs]
    by_cases hlater : k ∈ ks
    · exact ih _ hwf' hlater
    · obtain rfl : k = j := (List.mem_cons.mp hk).resolve_right hlater
      have hkept : ¬ ∃ j ∈ ks, Piece.byte (memIndex (base + k.val)) = .byte (memIndex (base + j.val)) := by
        rintro ⟨j, hj, e⟩
        have hval := memIndex_add_inj (by omega) (by omega) (Piece.byte.inj e)
        exact hlater (Fin.ext hval ▸ hj)
      calc memRead (storeRegs base ks (s.storeByte (base + k.val) (s.reg k))).mem (memIndex (base + k.val))
          = memRead (s.storeByte (base + k.val) (s.reg k)).mem (memIndex (base + k.val)) :=
            changes_storeRegs base ks _ hwf' _ hkept
        _ = s.reg k := by rw [memRead_storeByte s _ _ _ hwf, if_pos rfl]

/-! ## Where the transfers leave PC -/

section
variable (s : State)

@[simp] theorem State.advance_mem : s.advance.mem = s.mem := rfl

@[simp] theorem storeBytes_pc (base : Nat) (bs : List Byte) : (storeBytes base bs s).pc = s.pc := by
  rw [storeBytes_eq, State.setMem_pc]

@[simp] theorem storeRegs_pc (base : Nat) (ks : List Reg) : (storeRegs base ks s).pc = s.pc := by
  rw [storeRegs_eq, State.setMem_pc]

@[simp] theorem loadRegs_pc (base : Nat) (ks : List Reg) : (loadRegs base ks s).pc = s.pc := by
  rw [loadRegs_eq]

end

/-! ## The decimal digits as numbers (R90) -/

@[simp] theorem bcdDigits_length (a : Byte) : (bcdDigits a).length = 3 := rfl

/-- No digit is cut off by its byte. -/
theorem bcdDigits_toNat (a : Byte) :
    (bcdDigits a)[0].toNat = a.toNat / 100 ∧ (bcdDigits a)[1].toNat = a.toNat / 10 % 10 ∧
      (bcdDigits a)[2].toNat = a.toNat % 10 := by
  have := a.isLt
  refine ⟨?_, ?_, ?_⟩ <;> exact Nat.mod_eq_of_lt (by omega)

/-! ## The address register written (R87 to R89) -/

/-- What one write to I leaves behind, with the value given as a number. -/
theorem setI_advance {w : Word} {a : Nat} (s : State) (hw : w.toNat = a) :
    (s.setI w).advance.i.toNat = a ∧ (s.setI w).advance.pc = s.pc + 2#16 ∧
      ChangesOnly (fun q => q = .addrI ∨ q = .pc) s (s.setI w).advance :=
  ⟨hw, rfl, (changes_setI s w).append (changes_advance _)⟩

/-- Five times a byte fits in I (R89). -/
theorem five_mul_wordOperand_toNat (b : Byte) : (5#16 * wordOperand b).toNat = 5 * b.toNat := by
  have := b.isLt
  rw [BitVec.toNat_mul, wordOperand_toNat]
  exact Nat.mod_eq_of_lt (by simp only [BitVec.toNat_ofNat]; omega)

/-! ## The statements -/

/-- Settles O26: one access to three bytes, each of which ends as its digit. -/
theorem bcdStore : Obligations.BcdStore := by
  intro x s hwf
  have hread (k : Nat) (hk : k < 3) := memRead_storeBytes (bcdDigits (s.reg x)) s.i.toNat k s hwf (by simp) hk
  obtain ⟨hundreds, tens, ones⟩ := bcdDigits_toNat (s.reg x)
  refine exec_accessing rfl ⟨?_, ?_, ?_, by simp, ?_⟩
  · rw [State.advance_mem, ← hundreds]; exact congrArg _ (hread 0 (by decide))
  · rw [State.advance_mem, ← tens]; exact congrArg _ (hread 1 (by decide))
  · rw [State.advance_mem, ← ones]; exact congrArg _ (hread 2 (by decide))
  · exact ((changes_storeBytes _ (bcdDigits (s.reg x)) s hwf).append (changes_advance _)).mono fun _ => Or.symm

/-- Settles O27: one access to x + 1 bytes, into which V0 to Vx are stored. -/
theorem blockStore : Obligations.BlockStore := by
  intro x s hwf
  refine exec_accessing rfl ⟨fun k hk => ?_, by simp, ?_⟩
  · exact memRead_storeRegs _ _ k s hwf ((mem_regsUpTo x k).mpr hk)
  · have hframe := (changes_storeRegs s.i.toNat (regsUpTo x) s hwf).append (changes_advance _)
    simp only [mem_regsUpTo] at hframe
    exact hframe.mono fun _ => Or.symm

/-- Settles O28: one access to x + 1 bytes, from which V0 to Vx are loaded. -/
theorem blockLoad : Obligations.BlockLoad := by
  intro x s
  refine exec_accessing rfl ⟨fun k hk => ?_, by simp, ?_⟩
  · rw [State.reg_advance, reg_loadRegs, if_pos ((mem_regsUpTo x k).mpr hk), State.loadByte]
  · have hframe := (changes_loadRegs s.i.toNat (regsUpTo x) s).append (changes_advance _)
    simp only [mem_regsUpTo] at hframe
    exact hframe.mono fun _ => Or.symm

/-- Settles O25: each is one write to I, of a word that is the number the rule gives. -/
theorem addressRegisterWrites : Obligations.AddressRegisterWrites := by
  intro x nnn s
  have hsum : (s.i + wordOperand (s.reg x)).toNat = (s.i.toNat + (s.reg x).toNat) % 65536 := by
    rw [BitVec.toNat_add, wordOperand_toNat]
  exact ⟨⟨_, rfl, setI_advance s (addressOperand_toNat nnn)⟩, ⟨_, rfl, setI_advance s hsum⟩,
    ⟨_, rfl, setI_advance s (five_mul_wordOperand_toNat (s.reg x))⟩⟩

end Sys2Proof.Machine
end

section
/-! SUPPORT and PROOFS. The display (spec/43_display.md): what a sequence of plots at pairwise different pixels does,
which pixels a sprite covers, what DRW leaves behind, and the statements of that family. -/

namespace Sys2Proof.Machine

/-! ## Plots at pairwise different pixels (R94, R95) -/

/-- The pixel a plot falls on: its row modulo 32 and its column modulo 64 (R95). -/
def plotCell (p : Nat × Nat) : Nat × Nat := (p.1 % 32, p.2 % 64)

theorem plotCell_eq_iff (p : Nat × Nat) (r c : Nat) :
    plotCell p = (r % 32, c % 64) ↔ p.1 % 32 = r % 32 ∧ p.2 % 64 = c % 64 := Prod.mk_inj

theorem pixel_plotCell (d : Display) (p : Nat × Nat) : pixel d (plotCell p).1 (plotCell p).2 = pixel d p.1 p.2 := by
  simp only [pixel, plotCell, Nat.mod_mod]

/-- A toggle leaves every other pixel alone. -/
theorem pixel_togglePixel_of_ne (d : Display) {p q : Nat × Nat} (h : plotCell p ≠ plotCell q) :
    pixel (togglePixel d p.1 p.2) q.1 q.2 = pixel d q.1 q.2 := by
  have hne : ¬ (p.1 % 32 = q.1 % 32 ∧ p.2 % 64 = q.2 % 64) := fun e => h ((plotCell_eq_iff p q.1 q.2).mpr e)
  rw [pixel_togglePixel, decide_eq_false hne, Bool.xor_false]

/-- Where no two plots fall on the same pixel, exactly the pixels plotted are flipped. -/
theorem pixel_plotAll_of_nodup {ps : List (Nat × Nat)} (hps : (ps.map plotCell).Nodup) (d : Display) (hit : Bool)
    (r c : Nat) :
    pixel (plotAll ps d hit).1 r c = (pixel d r c ^^ decide ((r % 32, c % 64) ∈ ps.map plotCell)) := by
  have hcount : (ps.countP fun p => p.1 % 32 = r % 32 ∧ p.2 % 64 = c % 64) =
      (ps.map plotCell).count (r % 32, c % 64) := by
    rw [List.count, List.countP_map]
    exact List.countP_congr fun p _ => by simp [plotCell_eq_iff]
  rw [pixel_plotAll, hcount, hps.count]
  split <;> simp [*]

/-- Where no two plots fall on the same pixel, a set pixel is turned off exactly where one of them was on before. -/
theorem plotAll_hit_of_nodup {ps : List (Nat × Nat)} (hps : (ps.map plotCell).Nodup) (d : Display) (hit : Bool) :
    (plotAll ps d hit).2 = true ↔ hit = true ∨ ∃ p ∈ ps, pixel d p.1 p.2 = true := by
  induction ps generalizing d hit with
  | nil => simp [plotAll]
  | cons p ps ih =>
    obtain ⟨hp, hps⟩ := List.nodup_cons.mp hps
    have hkept (q) (hq : q ∈ ps) : pixel (togglePixel d p.1 p.2) q.1 q.2 = pixel d q.1 q.2 :=
      pixel_togglePixel_of_ne d fun e => hp (e ▸ List.mem_map_of_mem hq)
    rw [plotAll, ih hps, Bool.or_eq_true, or_assoc, List.exists_mem_cons_iff]
    exact or_congr_right (or_congr_right (exists_congr fun q => and_congr_right fun hq => by rw [hkept q hq]))

/-! ## The pixels of a sprite (R94) -/

theorem mem_spriteRow (b : Byte) (r cx : Nat) (p : Nat × Nat) :
    p ∈ spriteRow b r cx ↔ ∃ col, col < 8 ∧ b.getLsbD (7 - col) = true ∧ p = (r, cx + col) := by
  simp only [spriteRow, List.mem_map, List.mem_filter, List.mem_range, and_assoc, eq_comm]

theorem spriteRow_cells_nodup (b : Byte) (r cx : Nat) : ((spriteRow b r cx).map plotCell).Nodup := by
  rw [spriteRow, List.map_map]
  refine List.Nodup.map_on ?_ (List.nodup_range.filter _)
  intro j hj k hk e
  have hcol : (cx + j) % 64 = (cx + k) % 64 := (Prod.mk_inj.mp e).2
  rw [List.mem_filter, List.mem_range] at hj hk
  omega

section
variable (s : State) (cx cy n : Nat)

/-- A pixel lies under the sprite exactly where one of the sprite's plots falls on it (R94). -/
theorem spriteCovers_iff (r : Fin 32) (c : Fin 64) :
    SpriteCovers s cx cy n r c ↔ (r.val, c.val) ∈ (s.spritePixels cx cy n).map plotCell := by
  simp only [SpriteCovers, State.spritePixels, List.mem_map, List.mem_flatMap, List.mem_range, mem_spriteRow]
  constructor
  · rintro ⟨row, col, hrow, hcol, hbit, hr, hc⟩
    exact ⟨_, ⟨row, hrow, col, hcol, hbit, rfl⟩, Prod.ext hr hc⟩
  · rintro ⟨_, ⟨row, hrow, col, hcol, hbit, rfl⟩, e⟩
    obtain ⟨hr, hc⟩ := Prod.mk_inj.mp e
    exact ⟨row, col, hrow, hcol, hbit, hr, hc⟩

/-- One of the sprite's plots falls on a set pixel exactly where the sprite covers one. -/
theorem exists_spritePixel_on_iff (d : Display) :
    (∃ p ∈ s.spritePixels cx cy n, pixel d p.1 p.2 = true) ↔
      ∃ r c, SpriteCovers s cx cy n r c ∧ pixel d r.val c.val = true := by
  simp only [spriteCovers_iff, List.mem_map]
  constructor
  · rintro ⟨p, hp, hon⟩
    refine ⟨⟨p.1 % 32, Nat.mod_lt _ (by decide)⟩, ⟨p.2 % 64, Nat.mod_lt _ (by decide)⟩, ⟨p, hp, rfl⟩, ?_⟩
    exact (pixel_plotCell d p).trans hon
  · rintro ⟨r, c, ⟨p, hp, e⟩, hon⟩
    refine ⟨p, hp, ?_⟩
    rw [← hon, ← pixel_plotCell, e]

variable {n} (hn : n ≤ 32)
include hn

/-- A sprite is at most 8 columns wide and, with no more rows than the display, falls on no pixel twice (R94). -/
theorem spritePixels_cells_nodup : ((s.spritePixels cx cy n).map plotCell).Nodup := by
  rw [State.spritePixels, List.map_flatMap, List.Nodup, List.pairwise_flatMap]
  refine ⟨fun row _ => spriteRow_cells_nodup _ _ _, List.pairwise_lt_range.imp_of_mem ?_⟩
  intro j k hj hk hlt a ha b hb e
  obtain ⟨p, hp, rfl⟩ := List.mem_map.mp ha
  obtain ⟨q, hq, rfl⟩ := List.mem_map.mp hb
  obtain ⟨_, _, _, rfl⟩ := (mem_spriteRow _ _ _ p).mp hp
  obtain ⟨_, _, _, rfl⟩ := (mem_spriteRow _ _ _ q).mp hq
  have hrow : (cy + j) % 32 = (cy + k) % 32 := (Prod.mk_inj.mp e).1
  rw [List.mem_range] at hj hk
  omega

/-! ## What DRW leaves behind (R94) -/

/-- A drawn sprite flips the pixels it covers and no other. -/
theorem pixel_drawn (r : Fin 32) (c : Fin 64) [Decidable (SpriteCovers s cx cy n r c)] :
    pixel (s.drawn cx cy n).disp r.val c.val =
      if SpriteCovers s cx cy n r c then !pixel s.disp r.val c.val else pixel s.disp r.val c.val := by
  rw [State.drawn, State.setReg_disp, State.setDisp_disp,
    pixel_plotAll_of_nodup (spritePixels_cells_nodup s cx cy hn), Nat.mod_eq_of_lt r.isLt, Nat.mod_eq_of_lt c.isLt]
  by_cases h : SpriteCovers s cx cy n r c
  · rw [if_pos h, decide_eq_true ((spriteCovers_iff s cx cy n r c).mp h), Bool.xor_true]
  · rw [if_neg h, decide_eq_false fun hmem => h ((spriteCovers_iff s cx cy n r c).mpr hmem), Bool.xor_false]

/-- VF ends as 1 where the sprite covers a pixel that is on, else as 0. -/
theorem reg_vf_drawn [Decidable (∃ r c, SpriteCovers s cx cy n r c ∧ pixel s.disp r.val c.val = true)] :
    (s.drawn cx cy n).reg vf =
      if ∃ r c, SpriteCovers s cx cy n r c ∧ pixel s.disp r.val c.val = true then 1#8 else 0#8 := by
  have hhit := plotAll_hit_of_nodup (spritePixels_cells_nodup s cx cy hn) s.disp false
  rw [exists_spritePixel_on_iff] at hhit
  rw [State.drawn, State.reg_setReg, if_pos rfl, hitFlag, flagOf]
  exact if_congr (by rw [hhit, or_iff_right Bool.false_ne_true]) rfl rfl

/-- A drawn sprite touches VF and the pixels it covers. -/
theorem changes_drawn :
    ChangesOnly (fun q => q = .reg vf ∨ ∃ r c, SpriteCovers s cx cy n r c ∧ q = .pixel r c) s (s.drawn cx cy n) := by
  classical
  intro q hq
  by_cases hpixel : ∃ r c, q = .pixel r c
  · obtain ⟨r, c, rfl⟩ := hpixel
    have hnot : ¬ SpriteCovers s cx cy n r c := fun h => hq (.inr ⟨r, c, h, rfl⟩)
    exact (pixel_drawn s cx cy hn r c).trans (if_neg hnot)
  · have hframe : ChangesOnly (fun q => (∃ r c, q = .pixel r c) ∨ q = .reg vf) s (s.drawn cx cy n) :=
      (changes_setDisp s _).append (changes_setReg _ vf _)
    exact hframe q fun h => h.elim hpixel fun e => hq (.inl e)

end

@[simp] theorem State.advance_disp (s : State) : s.advance.disp = s.disp := rfl

/-- An access to no bytes cannot fault (R32). -/
theorem State.accessing_zero (s done : State) (base : Nat) : s.accessing base 0 done = done := by
  rw [State.accessing, State.outOfRange_eq, if_pos (.inr (.inl rfl))]

/-- DRW leaves the drawn sprite, PC gone on, where it has no rows or its last byte can be accessed; else it raises
AddressFault and draws nothing (R94). -/
theorem exec_drw {P : State → Prop} (x y : Reg) (n : Nibble) (s : State)
    (hdrawn : P (s.drawn (s.reg x).toNat (s.reg y).toNat n.toNat).advance) :
    (n.toNat = 0 ∨ s.canAccess (s.i.toNat + (n.toNat - 1)) → ∃ t, exec (.drw x y n) s = .next t ∧ P t) ∧
    (n.toNat ≠ 0 → ¬ s.canAccess (s.i.toNat + (n.toNat - 1)) → ∃ t, exec (.drw x y n) s = .next t ∧
      RaisedFault .addressFault (BitVec.ofNat 16 (max s.i.toNat 4096)) s t) := by
  have hexec : exec (.drw x y n) s = .next (s.accessing s.i.toNat n.toNat
      (s.drawn (s.reg x).toNat (s.reg y).toNat n.toNat).advance) := rfl
  by_cases hn : n.toNat = 0
  · refine ⟨fun _ => ⟨_, ?_, hdrawn⟩, fun h => absurd hn h⟩
    rw [hexec, hn, State.accessing_zero]
  · have hsucc : n.toNat = n.toNat - 1 + 1 := (Nat.sub_add_cancel (Nat.pos_of_ne_zero hn)).symm
    obtain ⟨hin, hout⟩ := exec_accessing (hexec.trans (by rw [← hsucc])) hdrawn
    exact ⟨fun h => hin (h.resolve_left hn), fun _ => hout⟩

/-! ## The statements -/

/-- Settles O31: the clear display has every pixel off, and CLS writes no more than it and PC. -/
theorem clearTurnsEveryPixelOff : Obligations.ClearTurnsEveryPixelOff := fun s =>
  ⟨_, rfl, fun r c => pixel_clearDisplay r.val c.val, rfl,
    ((changes_setDisp s clearDisplay).append (changes_advance _)).mono fun _ => Or.symm⟩

/-- Settles O32: the drawn sprite is the effect of one access to n bytes, or of none where n = 0. -/
theorem drawXorsSprite : Obligations.DrawXorsSprite := by
  classical
  intro x y n s
  have hrows : n.toNat ≤ 32 := by omega
  refine exec_drw x y n s ⟨fun r c hcov => ?_, fun hhit => ?_, fun hmiss => ?_, rfl, ?_⟩
  · rw [State.advance_disp, pixel_drawn s _ _ hrows, if_pos hcov]
  · rw [State.reg_advance, reg_vf_drawn s _ _ hrows, if_pos hhit]
  · rw [State.reg_advance, reg_vf_drawn s _ _ hrows, if_neg hmiss]
  · exact ((changes_drawn s _ _ hrows).append (changes_advance _)).mono fun _ => Or.symm

end Sys2Proof.Machine
end

section
/-! SUPPORT and PROOFS. Timers and keys (spec/44_timers_keys.md): what a key skip answers for a key index and for a
larger byte, what a waiting machine does at the instruction phase and at a press, and the statements of that family. -/

namespace Sys2Proof.Machine

/-! ## The key operand and the key skips (R97, R98) -/

theorem keyOperand_of_eq {b : Byte} {k : Key} (h : b.toNat = k.val) : keyOperand b = some k := by
  simp [keyOperand, h]

theorem keyOperand_of_ge {b : Byte} (h : 16 ≤ b.toNat) : keyOperand b = none :=
  dif_neg (Nat.not_lt.mpr h)

theorem wordOperand_eq_ofNat (b : Byte) : wordOperand b = BitVec.ofNat 16 b.toNat :=
  (BitVec.ofNat_toNat 16 b).symm

theorem State.skipOnKey_of_eq {b : Byte} {k : Key} (s : State) (down : Bool) (h : b.toNat = k.val) :
    s.skipOnKey b down = s.skipIf (s.keyDown k == down) := by
  rw [State.skipOnKey, keyOperand_of_eq h]

theorem State.skipOnKey_of_ge {b : Byte} (s : State) (down : Bool) (h : 16 ≤ b.toNat) :
    s.skipOnKey b down = s.raise .keyIndexFault (BitVec.ofNat 16 b.toNat) := by
  rw [State.skipOnKey, keyOperand_of_ge h, wordOperand_eq_ofNat]

theorem exec_skp (x : Reg) (s : State) : exec (.skp x) s = .next (s.skipOnKey (s.reg x) true) := rfl

theorem exec_sknp (x : Reg) (s : State) : exec (.sknp x) s = .next (s.skipOnKey (s.reg x) false) := rfl

/-! ## The key wait (R100, R124, R129) -/

/-- A waiting machine executes no instruction and keeps its instruction deadline (R129). -/
theorem instructionPhase_of_waiting {s : State} (h : s.waiting = true) : instructionPhase s = .next s := by
  simp [instructionPhase, State.instructionDue, h]

@[simp] theorem State.reg_setWaiting (s : State) (b : Bool) (x : Reg) : (s.setWaiting b).reg x = s.reg x := rfl

@[simp] theorem State.keyDown_setWaiting (s : State) (b : Bool) (k : Key) :
    (s.setWaiting b).keyDown k = s.keyDown k := rfl

@[simp] theorem State.keyDown_setReg (s : State) (x : Reg) (b : Byte) (k : Key) :
    (s.setReg x b).keyDown k = s.keyDown k := rfl

theorem State.keyPress_of_waiting {s : State} (k : Key) (h : s.waiting = true) :
    s.keyPress k = ((s.setKey k true).setReg s.waitReg (BitVec.ofNat 8 k.val)).setWaiting false :=
  if_pos h

/-- A key index fits in a byte. -/
theorem key_ofNat_toNat (k : Key) : (BitVec.ofNat 8 k.val).toNat = k.val :=
  Nat.mod_eq_of_lt (by omega)

/-- What a press leaves of a waiting machine: the key in the waiting register, the wait lifted, the key down (R124). -/
theorem keyPress_of_waiting_frame {s : State} (k : Key) (h : s.waiting = true) :
    ((s.keyPress k).reg s.waitReg).toNat = k.val ∧ (s.keyPress k).waiting = false ∧
      (s.keyPress k).keyDown k = true ∧
      ChangesOnly (fun q => q = .reg s.waitReg ∨ q = .waiting ∨ q = .key k) s (s.keyPress k) := by
  rw [State.keyPress_of_waiting k h]
  refine ⟨?_, rfl, ?_, ?_⟩
  · rw [State.reg_setWaiting, State.reg_setReg, if_pos rfl, key_ofNat_toNat]
  · simp
  · exact ((changes_setKey s k true).append ((changes_setReg _ _ _).append (changes_setWaiting _ _))).mono
      fun _ hq => or_assoc.mp hq.symm

/-! ## The statements -/

/-- Settles O36: LD Vx,K enters the wait and leaves V[x] alone; the rest is what a waiting machine does at the
instruction phase, at a release and at a press. -/
theorem waitForKey : Obligations.WaitForKey := by
  intro x s
  have henter : ChangesOnly (fun q => q = .waiting ∨ q = .waitReg ∨ q = .pc) s
      ((s.setWaiting true).setWaitReg x).advance :=
    (changes_setWaiting s true).append ((changes_setWaitReg _ x).append (changes_advance _))
  refine ⟨_, rfl, rfl, rfl, rfl, henter, instructionPhase_of_waiting rfl, fun k => ⟨?_, ?_⟩⟩
  · exact ⟨_, rfl, rfl, changes_setKey _ k false⟩
  · exact ⟨_, rfl, keyPress_of_waiting_frame k rfl⟩

/-- Settles O34: a key index makes both skips a `skipIf` on its level, a larger byte makes both raise. -/
theorem keySkips : Obligations.KeySkips := by
  intro x s
  constructor
  · intro k hk
    rw [exec_skp, exec_sknp, s.skipOnKey_of_eq true hk, s.skipOnKey_of_eq false hk]
    refine ⟨⟨_, rfl, ?_, changes_skipIf s _⟩, ⟨_, rfl, ?_, changes_skipIf s _⟩⟩ <;>
      cases s.keyDown k <;> rfl
  · intro h
    rw [exec_skp, exec_sknp, s.skipOnKey_of_ge true h, s.skipOnKey_of_ge false h]
    exact ⟨⟨_, rfl, raise_raisedFault s _ _⟩, ⟨_, rfl, raise_raisedFault s _ _⟩⟩

/-- Settles O35: each is one timer write, and the sound port reads the byte written to ST. -/
theorem timerMoves : Obligations.TimerMoves := by
  intro x s
  have hsound : (s.setSt (s.reg x)).advance.soundPort = true ↔ (s.reg x).toNat ≠ 0 :=
    bne_iff_ne.trans BitVec.toNat_ne_iff_ne.symm
  exact ⟨⟨_, rfl, rfl, rfl, (changes_setDt s _).append (changes_advance _)⟩,
    ⟨_, rfl, rfl, hsound, rfl, (changes_setSt s _).append (changes_advance _)⟩⟩

end Sys2Proof.Machine
end

section
/-! SUPPORT and PROOFS. Exceptions, input events and the two clocks (spec/60_exceptions.md): which words the decoder
rejects, how an execution can end, what each event does, the step of a live machine whose events leave it live, and the
statements of that family. -/

namespace Sys2Proof.Machine

/-! ## The undefined words (R49, R51) -/

theorem exists_ite_ok_eq_error_iff {c : Prop} [Decidable c] (i : Instr) (r : Except DecodeReject Instr) :
    (∃ e, (if c then .ok i else r) = .error e) ↔ ¬ c ∧ ∃ e, r = .error e := by
  by_cases hc : c <;> simp [hc]

theorem decodeFamily8_rejects_iff (x y : Reg) (n : Nibble) :
    (∃ e, decodeFamily8 x y n = .error e) ↔ 8 ≤ n.toNat ∧ n.toNat ≠ 0xE := by
  have := n.isLt
  simp only [decodeFamily8, exists_ite_ok_eq_error_iff, Except.error.injEq, exists_eq', ← BitVec.toNat_inj,
    BitVec.toNat_ofNat, Nat.reducePow, Nat.reduceMod, and_true]
  omega

theorem decodeFamilyE_rejects_iff (x : Reg) (nn : Byte) :
    (∃ e, decodeFamilyE x nn = .error e) ↔ nn.toNat ≠ 0x9E ∧ nn.toNat ≠ 0xA1 := by
  simp [decodeFamilyE, exists_ite_ok_eq_error_iff, ← BitVec.toNat_inj]

theorem decodeFamilyF_rejects_iff (x : Reg) (nn : Byte) :
    (∃ e, decodeFamilyF x nn = .error e) ↔
      nn.toNat ∉ [0x07, 0x0A, 0x15, 0x18, 0x1E, 0x29, 0x33, 0x55, 0x65] := by
  simp [decodeFamilyF, exists_ite_ok_eq_error_iff, ← BitVec.toNat_inj]

/-- The families without a secondary selector, and family 0, decode whatever their low bits are (R49). -/
theorem decodeWord_ok_of_family {w : Word} (h8 : w.toNat / 4096 ≠ 0x8) (hE : w.toNat / 4096 ≠ 0xE)
    (hF : w.toNat / 4096 ≠ 0xF) : ∃ i, decodeWord w = .ok i := by
  rw [← fieldOp_val] at h8 hE hF
  unfold decodeWord
  split
  case h_9 => contradiction
  case h_15 => contradiction
  case h_16 => simp only [imp_false] at *; omega
  all_goals exact ⟨_, rfl⟩

/-- The decoder rejects exactly the words R51 lists. -/
theorem decodeWord_rejects_iff (w : Word) : UndefinedWord w ↔ ∃ e, decodeWord w = .error e := by
  by_cases h8 : w.toNat / 4096 = 0x8
  · have hd : decodeWord w = decodeFamily8 (fieldX w) (fieldY w) (fieldN w) := by
      simp only [decodeWord, fieldOp_val, h8]
    rw [hd, decodeFamily8_rejects_iff, fieldN_toNat]
    simp [UndefinedWord, h8]
  by_cases hE : w.toNat / 4096 = 0xE
  · have hd : decodeWord w = decodeFamilyE (fieldX w) (fieldNN w) := by
      simp only [decodeWord, fieldOp_val, hE]
    rw [hd, decodeFamilyE_rejects_iff, fieldNN_toNat]
    simp [UndefinedWord, hE]
  by_cases hF : w.toNat / 4096 = 0xF
  · have hd : decodeWord w = decodeFamilyF (fieldX w) (fieldNN w) := by
      simp only [decodeWord, fieldOp_val, hF]
    rw [hd, decodeFamilyF_rejects_iff, fieldNN_toNat]
    simp [UndefinedWord, hF]
  · obtain ⟨i, hi⟩ := decodeWord_ok_of_family h8 hE hF
    simp [UndefinedWord, h8, hE, hF, hi]

theorem executeOne_of_decode_error {s : State} {w : Word} {e : DecodeReject} (hfetch : s.fetch = .ok w)
    (hdec : decodeWord w = .error e) : executeOne s = .next (s.raise .decodeFault w) := by
  simp only [executeOne, hfetch, hdec]

/-! ## How an execution ends (R118, R122) -/

/-- The execution of i that leads from s to t raised a fault and did nothing else, or it completed without one, and then
it has not touched HALT unless it is the zero word (R60, R118). -/
def ExecEnds (i : Instr) (s t : State) : Prop :=
  (∃ c info, c ≠ .noFault ∧ t = s.raise c info) ∨
    (t.faultCause = s.faultCause ∧ (i = .halt ∨ t.halt = s.halt))

section
variable {i : Instr} {s : State}

theorem ExecEnds.of_raise {c : FaultCause} (info : Word) (hc : c ≠ .noFault) : ExecEnds i s (s.raise c info) :=
  .inl ⟨c, info, hc, rfl⟩

theorem ExecEnds.of_setMem (m : Memory) : ExecEnds i s (s.setMem m).advance := .inr ⟨rfl, .inr rfl⟩

theorem ExecEnds.of_skipIf (c : Bool) : ExecEnds i s (s.skipIf c) := by
  rw [State.skipIf_eq]; exact .inr ⟨rfl, .inr rfl⟩

theorem ExecEnds.of_skipOnKey (b : Byte) (down : Bool) : ExecEnds i s (s.skipOnKey b down) := by
  unfold State.skipOnKey
  split
  exacts [.of_raise _ (by decide), .of_skipIf _]

theorem ExecEnds.of_accessing {done : State} (base n : Nat) (h : ExecEnds i s done) :
    ExecEnds i s (s.accessing base n done) := by
  rcases s.accessing_cases base n done with ⟨_, e⟩ | ⟨a, _, e⟩ <;> rw [e]
  exacts [h, .of_raise _ (by decide)]

theorem ExecEnds.of_writeResultAndFlag (x : Reg) (r f : Byte) :
    ExecEnds i s (s.writeResultAndFlag x r f).advance := by
  rw [State.writeResultAndFlag_eq]; exact .inr ⟨rfl, .inr rfl⟩

end

/-- Every execution answers a next state, and ends in one of these ways. -/
theorem exec_ends (i : Instr) (s : State) : ∃ t, exec i s = .next t ∧ ExecEnds i s t := by
  cases i with
  | sys nnn =>
    cases hp : s.params.sysPolicy with
    | fault => exact ⟨_, exec_sys_of_fault nnn hp, .of_raise _ (by decide)⟩
    | nop => exact ⟨_, exec_sys_of_nop nnn hp, .inr ⟨rfl, .inr rfl⟩⟩
  | ret =>
    by_cases hs : s.sp = 0
    · exact ⟨_, exec_ret_of_empty hs, .of_raise _ (by decide)⟩
    · obtain ⟨j, hj⟩ := Fin.exists_succ_eq.mpr hs
      exact ⟨_, exec_ret_of_sp_eq_succ (j := j) (by rw [← hj]; rfl), .inr ⟨rfl, .inr rfl⟩⟩
  | call nnn =>
    by_cases hs : s.sp = 16
    · exact ⟨_, exec_call_of_full nnn hs, .of_raise _ (by decide)⟩
    · have hj : s.sp.val < 16 := by have := s.sp.isLt; have := Fin.val_ne_of_ne hs; omega
      exact ⟨_, exec_call_of_sp_eq (j := ⟨s.sp.val, hj⟩) nnn rfl, .inr ⟨rfl, .inr rfl⟩⟩
  | halt => exact ⟨_, rfl, .inr ⟨rfl, .inl rfl⟩⟩
  | seImm | sneImm | seReg | sneReg => exact ⟨_, rfl, .of_skipIf _⟩
  | skp | sknp => exact ⟨_, rfl, .of_skipOnKey _ _⟩
  | addReg | subReg | shrReg | subnReg | shlReg => exact ⟨_, rfl, .of_writeResultAndFlag _ _ _⟩
  | rnd => exact ⟨_, rfl, by rw [State.afterDraw_eq]; exact .inr ⟨rfl, .inr rfl⟩⟩
  | ldB => exact ⟨_, rfl, .of_accessing _ _ (by rw [storeBytes_eq]; exact .of_setMem _)⟩
  | ldStore => exact ⟨_, rfl, .of_accessing _ _ (by rw [storeRegs_eq]; exact .of_setMem _)⟩
  | ldLoad => exact ⟨_, rfl, .of_accessing _ _ (by rw [loadRegs_eq]; exact .inr ⟨rfl, .inr rfl⟩)⟩
  | drw => exact ⟨_, rfl, .of_accessing _ _ (.inr ⟨rfl, .inr rfl⟩)⟩
  | cls | jp | jpV0 | ldImm | addImm | ldReg | orReg | andReg | xorReg | ldI | addI | ldF | ldVxDt | ldVxK | ldDtVx
  | ldStVx => exact ⟨_, rfl, .inr ⟨rfl, .inr rfl⟩⟩

theorem execEnds_of_exec {i : Instr} {s t : State} (h : exec i s = .next t) : ExecEnds i s t := by
  obtain ⟨u, hu, hends⟩ := exec_ends i s
  cases hu.symm.trans h
  exact hends

/-- One execution of the engine answers a next state, and it raised a fault and did nothing else, or it has recorded
none (R45, R118). -/
theorem executeOne_ends (s : State) :
    ∃ t, executeOne s = .next t ∧
      ((∃ c info, c ≠ .noFault ∧ t = s.raise c info) ∨ t.faultCause = s.faultCause) := by
  rcases executeOne_cases s with ⟨a, _, e⟩ | ⟨w, _, _, _, e⟩ | ⟨w, i, _, _, e⟩
  · exact ⟨_, e, .inl ⟨_, _, by decide, rfl⟩⟩
  · exact ⟨_, e, .inl ⟨_, _, by decide, rfl⟩⟩
  · obtain ⟨t, ht, hends⟩ := exec_ends i s
    exact ⟨t, e.trans ht, hends.imp_right And.left⟩

/-! ## The events (R124, R127, R128) -/

section
variable {s : State}

theorem applyEvent_keyPress_of_not_waiting (k : Key) (h : s.waiting = false) :
    applyEvent (.keyPress k) s = .next (s.setKey k true) := by
  simp [applyEvent, State.keyPress, h]

/-- A press touches V, KEY and WAITING alone. -/
theorem State.keyPress_eq (s : State) (k : Key) :
    s.keyPress k = { s with v := (s.keyPress k).v, key := (s.keyPress k).key, waiting := (s.keyPress k).waiting } := by
  unfold State.keyPress
  split <;> rfl

theorem applyEvent_pauseToggle_of_running (h : s.paused = false) :
    applyEvent .pauseToggle s = .next (s.setPaused true) := by
  simp [applyEvent, State.pauseToggle, h]

theorem applyEvent_pauseToggle_of_paused (h : s.paused = true) :
    applyEvent .pauseToggle s = .next (((s.setPaused false).setIDeadline s.now).setTDeadline s.now) := by
  simp [applyEvent, State.pauseToggle, h]

theorem changes_unpause (t : Nat) :
    ChangesOnly (fun q => q = .paused ∨ q = .iDeadline ∨ q = .tDeadline) s
      (((s.setPaused false).setIDeadline t).setTDeadline t) :=
  (changes_setPaused s false).append ((changes_setIDeadline _ t).append (changes_setTDeadline _ t))

theorem singleStep_of_enabled (h : s.paused = true ∧ s.waiting = false ∧ s.halt = false) :
    singleStep s = executeOne s := by
  obtain ⟨hp, hw, hh⟩ := h
  exact if_pos (by simp [hp, hw, hh])

theorem singleStep_of_not_enabled (h : ¬ (s.paused = true ∧ s.waiting = false ∧ s.halt = false)) :
    singleStep s = .next s :=
  if_neg (by simpa [and_assoc] using h)

/-- No event clears HALT (R122). -/
theorem applyEvent_keeps_halt {e : Event} {t : State} (hs : s.halt = true) (h : applyEvent e s = .next t) :
    t.halt = true := by
  cases e with
  | keyPress k => cases h; rw [State.keyPress_eq]; exact hs
  | keyRelease k => cases h; exact hs
  | pauseToggle =>
    cases hp : s.paused with
    | false => cases (applyEvent_pauseToggle_of_running hp).symm.trans h; exact hs
    | true => cases (applyEvent_pauseToggle_of_paused hp).symm.trans h; exact hs
  | singleStep =>
    cases (singleStep_of_not_enabled (by simp [hs])).symm.trans h
    exact hs
  | exitRequest => cases h; rfl

/-- An event that records no fault lets the events after it be applied (R123). -/
theorem applyEvents_cons_of_noFault {e : Event} {t : State} (es : List Event) (h : applyEvent e s = .next t)
    (ht : t.faultCause = .noFault) : applyEvents (e :: es) s = applyEvents es t := by
  rw [applyEvents, h, Result.unlessFaulted_next, (State.faulted_eq_false_iff t).mpr ht, if_neg Bool.false_ne_true]

end

/-! ## The two clocks (R122, R125, R126, R127) -/

section
variable {s : State}

theorem instructionPhase_of_halt (h : s.halt = true) : instructionPhase s = .next s := by
  simp [instructionPhase, State.instructionDue, h]

theorem instructionPhase_of_paused (h : s.paused = true) : instructionPhase s = .next s := by
  simp [instructionPhase, State.instructionDue, h]

theorem State.timerPhase_of_paused (h : s.paused = true) : s.timerPhase = s := by
  simp [State.timerPhase, State.timerDue, h]

theorem countDown_toNat (b : Byte) : (countDown b).toNat = b.toNat - 1 := by
  unfold countDown
  split
  · next h => rw [h]; rfl
  · next h =>
    have := b.isLt
    have : b.toNat ≠ 0 := fun h0 => h (BitVec.eq_of_toNat_eq h0)
    rw [BitVec.toNat_sub]
    simp only [BitVec.toNat_ofNat]
    omega

/-- A timer phase that is due counts both timers down once (R126). -/
theorem timerPhase_countedOnce (hp : s.paused = false) (hdue : s.tDeadline ≤ s.now) :
    CountedOnce s.tDeadline s s.timerPhase := by
  have hphase : s.timerPhase = (s.setTDeadline (s.tDeadline + s.params.tTimer)).countTimers :=
    if_pos (by simp [State.timerDue, hp, hdue])
  rw [hphase]
  refine ⟨countDown_toNat s.dt, countDown_toNat s.st, rfl, ?_⟩
  exact ((changes_setTDeadline s _).append ((changes_setDt _ _).append (changes_setSt _ _))).mono fun _ hq =>
    or_assoc.mp hq.symm

end

/-! ## The step of a live machine (R123) -/

section
variable {s u : State} {elapsed : Nat} {events : List Event} {rest : List HostInput}

theorem step_of_fault (hf : s.faultCause ≠ .noFault) (hhost : s.host = .iterate elapsed events :: rest) :
    step s = .next (s.sampled elapsed rest) := by
  rw [step_iterate hhost, iterateNow_stopped]
  simp [State.stopped, State.faulted, State.sampled, hf]

theorem step_reset {image : List Byte} (hhost : s.host = .reset elapsed image :: rest) :
    step s = resetWith image (s.sampled elapsed rest) := by
  rw [step_eq, State.nextInput, hhost]; rfl

variable (hf : s.faultCause = .noFault) (hh : s.halt = false) (hhost : s.host = .iterate elapsed events :: rest)
  (he : applyEvents events (s.sampled elapsed rest) = .next u) (hu : u.faultCause = .noFault)
include hf hh hhost he hu

/-- A live machine whose events leave it without a fault: the two clocks, in order (R123). -/
theorem step_of_events : step s = Result.unlessFaulted (instructionPhase u) fun t => .next t.timerPhase := by
  rw [step_iterate hhost, iterateNow_live (s := s.sampled elapsed rest) hf hh he hu]

/-- Where no instruction executes, the rest of the iteration is the timer phase. -/
theorem step_of_idle_phase (hidle : instructionPhase u = .next u) : step s = .next u.timerPhase := by
  rw [step_of_events hf hh hhost he hu, hidle, Result.unlessFaulted_next, (State.faulted_eq_false_iff u).mpr hu,
    if_neg Bool.false_ne_true]

/-- Where the events leave the machine paused, the iteration is the events alone (R127). -/
theorem step_of_paused (hp : u.paused = true) : step s = .next u := by
  rw [step_of_idle_phase hf hh hhost he hu (instructionPhase_of_paused hp), State.timerPhase_of_paused hp]

end

/-! ## The iteration that unpauses (R127) -/

section
variable {s : State} {elapsed : Nat} {rest : List HostInput}

@[simp] theorem State.unpausing_faultCause : (s.unpausing elapsed rest).faultCause = s.faultCause := by
  simp [State.unpausing, State.sampled]

@[simp] theorem State.unpausing_waiting : (s.unpausing elapsed rest).waiting = s.waiting := by
  simp [State.unpausing, State.sampled]

theorem applyEvents_unpausing (hp : s.paused = true) (hf : s.faultCause = .noFault) :
    applyEvents [.pauseToggle] (s.sampled elapsed rest) = .next (s.unpausing elapsed rest) := by
  have htoggle : applyEvent .pauseToggle (s.sampled elapsed rest) = .next (s.unpausing elapsed rest) :=
    applyEvent_pauseToggle_of_paused (s := s.sampled elapsed rest) hp
  exact applyEvents_cons_of_noFault [] htoggle (by simp [hf])

/-- The instruction clock is due at once, and its deadline is one period after now. -/
theorem instructionPhase_unpausing (hw : s.waiting = false) (hh : s.halt = false) :
    instructionPhase (s.unpausing elapsed rest) =
      executeOne ((s.unpausing elapsed rest).setIDeadline (s.now + elapsed + s.params.tInstr)) :=
  if_pos (by simp [State.instructionDue, State.unpausing, State.sampled, hw, hh])

variable (hp : s.paused = true) (hh : s.halt = false) (hf : s.faultCause = .noFault)
  (hhost : s.host = .iterate elapsed [.pauseToggle] :: rest)
include hp hh hf hhost

/-- Not waiting, one instruction executes, and unless it faults both timers are counted down once. -/
theorem step_unpausing_of_not_waiting (hw : s.waiting = false) :
    ∃ t u, executeOne ((s.unpausing elapsed rest).setIDeadline (s.now + elapsed + s.params.tInstr)) = .next t ∧
      step s = .next u ∧ u.iDeadline = s.now + elapsed + s.params.tInstr ∧
      (t.faultCause ≠ .noFault → u = t) ∧ (t.faultCause = .noFault → CountedOnce (s.now + elapsed) t u) := by
  obtain ⟨t, ht, _⟩ := executeOne_ends
    ((s.unpausing elapsed rest).setIDeadline (s.now + elapsed + s.params.tInstr))
  obtain ⟨hi, htd, hpaused, -, hnow, -⟩ := executeOne_sameClocks ht
  replace htd : t.tDeadline = s.now + elapsed := htd
  replace hnow : t.now = s.now + elapsed := hnow
  have hstep : step s = if t.faulted then .next t else .next t.timerPhase := by
    rw [step_of_events hf hh hhost (applyEvents_unpausing hp hf) (by simp [hf]), instructionPhase_unpausing hw hh, ht,
      Result.unlessFaulted_next]
  by_cases hfault : t.faultCause = .noFault
  · have hcount := timerPhase_countedOnce hpaused (htd.trans hnow.symm).le
    rw [htd] at hcount
    rw [(State.faulted_eq_false_iff t).mpr hfault, if_neg Bool.false_ne_true] at hstep
    refine ⟨t, _, ht, hstep, ?_, fun h => absurd hfault h, fun _ => hcount⟩
    rw [State.timerPhase_eq]
    exact hi
  · rw [(State.faulted_iff t).mpr hfault, if_pos rfl] at hstep
    exact ⟨t, t, ht, hstep, hi, fun _ => rfl, fun h => absurd h hfault⟩

/-- Waiting, no instruction executes, and both timers are counted down once. -/
theorem step_unpausing_of_waiting (hw : s.waiting = true) :
    ∃ u, step s = .next u ∧ u.iDeadline = s.now + elapsed ∧
      CountedOnce (s.now + elapsed) (s.unpausing elapsed rest) u := by
  have hidle : instructionPhase (s.unpausing elapsed rest) = .next (s.unpausing elapsed rest) :=
    instructionPhase_of_waiting (by simp [hw])
  refine ⟨_, step_of_idle_phase hf hh hhost (applyEvents_unpausing hp hf) (by simp [hf]) hidle, ?_, ?_⟩
  · rw [State.timerPhase_eq]; rfl
  · exact timerPhase_countedOnce (s := s.unpausing elapsed rest) rfl le_rfl

end

/-! ## The paused machine (R127) -/

section
variable {s : State} {elapsed : Nat} {rest : List HostInput} (hp : s.paused = true)
include hp

theorem step_paused_of_no_events (hhost : s.host = .iterate elapsed [] :: rest) :
    step s = .next (s.sampled elapsed rest) := by
  by_cases hf : s.faultCause = .noFault
  · cases hh : s.halt with
    | true => exact step_of_halt hh hhost
    | false => exact step_of_paused hf hh hhost rfl hf hp
  · exact step_of_fault hf hhost

variable (hh : s.halt = false) (hf : s.faultCause = .noFault)
include hh hf

theorem step_paused_of_keyPress {k : Key} (hhost : s.host = .iterate elapsed [.keyPress k] :: rest) :
    step s = .next ((s.sampled elapsed rest).keyPress k) := by
  have hlive : ((s.sampled elapsed rest).keyPress k).faultCause = .noFault := by rw [State.keyPress_eq]; exact hf
  have hpaused : ((s.sampled elapsed rest).keyPress k).paused = true := by rw [State.keyPress_eq]; exact hp
  exact step_of_paused hf hh hhost (applyEvents_cons_of_noFault [] rfl hlive) hlive hpaused

theorem step_paused_of_keyRelease {k : Key} (hhost : s.host = .iterate elapsed [.keyRelease k] :: rest) :
    step s = .next ((s.sampled elapsed rest).keyRelease k) :=
  step_of_paused hf hh hhost (applyEvents_cons_of_noFault (t := (s.sampled elapsed rest).keyRelease k) [] rfl hf) hf hp

end

/-! ## The statements -/

/-- Settles O4: the decoder rejects the words of R51 and no other, and a rejected word raises before any handler. -/
theorem undefinedWordsRaiseDecodeFault : Obligations.UndefinedWordsRaiseDecodeFault := by
  refine ⟨decodeWord_rejects_iff, by decide, fun s w hfetch hw => ?_⟩
  obtain ⟨e, he⟩ := (decodeWord_rejects_iff w).mp hw
  exact ⟨_, executeOne_of_decode_error hfetch he, raise_raisedFault s _ w⟩

/-- Settles O37: an execution that has recorded a fault has done nothing but raise it. -/
theorem faultsArePrecise : Obligations.FaultsArePrecise := by
  intro s t hs h hfault
  obtain ⟨u, hu, hends⟩ := executeOne_ends s
  cases hu.symm.trans h
  rcases hends with ⟨c, info, -, rfl⟩ | hkept
  · exact ⟨rfl, changes_setFault s c s.pc info⟩
  · exact absurd (hkept.trans hs) hfault

/-- Settles O39: the iteration is stopped before its first phase, and a reset builds a machine without a fault. -/
theorem deadMachineDoesNothing : Obligations.DeadMachineDoesNothing := by
  intro s elapsed rest hfault
  constructor
  · intro events hhost
    exact ⟨_, step_of_fault hfault hhost, hfault, changes_sampled s elapsed rest⟩
  · intro image hlen hhost
    exact ⟨_, (step_reset hhost).trans (if_pos hlen), rfl⟩

/-- Settles O40: who sets HALT, what the rest of the iteration does, and what a halted machine does later. -/
theorem haltedMachineRunsNothing : Obligations.HaltedMachineRunsNothing := by
  refine ⟨?_, ?_, ?_, ?_, ?_, ?_, fun s => Iff.rfl⟩
  · intro i s t h hs ht
    rcases execEnds_of_exec h with ⟨c, info, -, rfl⟩ | ⟨-, hi | hkept⟩
    · exact absurd (hs.symm.trans ht) Bool.false_ne_true
    · exact hi
    · exact absurd (hs.symm.trans (hkept.symm.trans ht)) Bool.false_ne_true
  · intro events s hf
    exact applyEvents_cons_of_noFault (t := s.setHalt true) events rfl hf
  · intro s elapsed rest hf hh hhost
    have he : applyEvents [.exitRequest] (s.sampled elapsed rest) = .next ((s.sampled elapsed rest).setHalt true) :=
      applyEvents_cons_of_noFault (t := (s.sampled elapsed rest).setHalt true) [] rfl hf
    exact step_of_idle_phase hf hh hhost he hf (instructionPhase_of_halt rfl)
  · intro s hh
    exact ⟨instructionPhase_of_halt hh, singleStep_of_not_enabled (by simp [hh])⟩
  · intro e s t hh h
    exact applyEvent_keeps_halt hh h
  · intro s elapsed events rest hh hhost
    exact ⟨_, step_of_halt hh hhost, hh, changes_sampled s elapsed rest⟩

/-- Settles O41: each event by the lemma that says what it does. -/
theorem inputEventsApplied : Obligations.InputEventsApplied := by
  intro s
  refine ⟨fun k hw => ?_, fun k hw => ?_, fun k => ?_, ?_, ?_, fun h => ?_, singleStep_of_not_enabled⟩
  · obtain ⟨hreg, hwait, hkey, hframe⟩ := keyPress_of_waiting_frame k hw
    exact ⟨_, rfl, hkey, hreg, hwait, hframe.mono fun _ => or_rotate.mpr⟩
  · exact ⟨_, applyEvent_keyPress_of_not_waiting k hw, by simp, changes_setKey s k true⟩
  · exact ⟨_, rfl, by simp [State.keyRelease], changes_setKey s k false⟩
  · exact ⟨_, rfl, rfl, changes_setHalt s true⟩
  · cases hp : s.paused with
    | false => exact ⟨_, applyEvent_pauseToggle_of_running hp, rfl, (changes_setPaused s true).mono fun _ => Or.inl⟩
    | true => exact ⟨_, applyEvent_pauseToggle_of_paused hp, rfl, changes_unpause s.now⟩
  · obtain ⟨t, ht, _⟩ := executeOne_ends s
    obtain ⟨hi, htd, -⟩ := executeOne_sameClocks ht
    exact ⟨singleStep_of_enabled h, t, ht, hi, htd⟩

/-- Settles O42: the toggle both ways, the iteration that unpauses, and the iterations of a paused machine. -/
theorem pauseFreezesTheClocks : Obligations.PauseFreezesTheClocks := by
  refine ⟨fun s hp => ?_, fun s hp => ?_, ?_, ?_, ?_⟩
  · exact ⟨_, applyEvent_pauseToggle_of_running hp, rfl, changes_setPaused s true⟩
  · refine ⟨_, applyEvent_pauseToggle_of_paused hp, rfl, rfl, rfl, changes_unpause s.now, ?_, ?_⟩
    · simp [State.timerDue]
    · intro hw hh
      simp [State.instructionDue, hw, hh]
  · intro s elapsed rest hp hh hf hhost
    exact ⟨step_unpausing_of_not_waiting hp hh hf hhost, step_unpausing_of_waiting hp hh hf hhost⟩
  · intro s elapsed rest k hp hh hf
    exact ⟨step_paused_of_keyPress hp hh hf, step_paused_of_keyRelease hp hh hf⟩
  · intro s elapsed rest hp hhost
    exact ⟨_, step_paused_of_no_events hp hhost, changes_sampled s elapsed rest⟩

end Sys2Proof.Machine
end

section
/-! SUPPORT and PROOFS. Reset (spec/70_reset_and_hazards.md): what memory reads as after an image is loaded, the step
that resets, that every iteration answers a next state, and the statements of that family. -/

namespace Sys2Proof.Machine

/-! ## Memory after an image is loaded (R141, R142) -/

section
variable {base : Nat} {image : List Byte}

/-- An image that ends within memory is loaded as its bytes would be stored one after the other. -/
theorem loadImage_eq_storeBytes (s : State) (hfits : base + image.length ≤ 4096) :
    loadImage base image s.mem = (storeBytes base image s).mem := by
  induction image generalizing base s with
  | nil => rfl
  | cons b bs ih =>
    rw [List.length_cons] at hfits
    have hidx : memIndex base = base := memIndex_of_lt base (show base < 4096 by omega)
    calc loadImage (base + 1) bs (memWrite s.mem base b)
        = loadImage (base + 1) bs (s.storeByte base b).mem := by rw [State.storeByte, hidx, State.setMem_mem]
      _ = (storeBytes (base + 1) bs (s.storeByte base b)).mem := ih _ (by omega)

variable {m : Memory} (hwf : Memory.wf m = true) (hfits : base + image.length ≤ 4096)
include hwf hfits

/-- Byte j of the image reads back at base + j (R142). -/
theorem memRead_loadImage {j : Nat} (hj : j < image.length) :
    memRead (loadImage base image m) (base + j) = image[j] := by
  have hidx : memIndex (base + j) = base + j := memIndex_of_lt _ (show base + j < 4096 by omega)
  rw [← memRead_storeBytes image base j (State.reset.setMem m) hwf (by omega) hj, hidx,
    ← loadImage_eq_storeBytes _ hfits, State.setMem_mem]

/-- Every byte outside the image reads as before. -/
theorem memRead_loadImage_of_outside {a : Nat} (ha : a < base ∨ base + image.length ≤ a) :
    memRead (loadImage base image m) a = memRead m a := by
  have hout : ¬ ∃ j, j < image.length ∧ Piece.byte a = .byte (memIndex (base + j)) := by
    rintro ⟨j, hj, e⟩
    rw [memIndex_of_lt _ (show base + j < 4096 by omega)] at e
    have := Piece.byte.inj e
    omega
  have hkept := changes_storeBytes base image (State.reset.setMem m) hwf _ hout
  rwa [Piece.same, ← loadImage_eq_storeBytes _ hfits, State.setMem_mem] at hkept

end

theorem some_memDefault_eq_fontBytes {a : Nat} (ha : a < 80) : some (memDefault a) = fontBytes[a]? := by
  have hlen : a < fontBytes.length := ha
  rw [memDefault, List.getD_eq_getElem _ _ hlen, List.getElem?_eq_getElem hlen]

theorem memDefault_of_font_le {a : Nat} (ha : 80 ≤ a) : memDefault a = 0#8 :=
  List.getD_eq_default _ _ ha

/-! ## The machine a reset builds (R140, R141) -/

section
variable {s : State} {elapsed : Nat} {image : List Byte} {rest : List HostInput}

theorem step_reset_of_fits (hhost : s.host = .reset elapsed image :: rest) (hfits : image.length ≤ 3584) :
    step s = .next ((s.sampled elapsed rest).construct image) :=
  (step_reset hhost).trans (if_pos hfits)

theorem step_reset_of_oversize (hhost : s.host = .reset elapsed image :: rest) (hlong : 3584 < image.length) :
    step s = .refused .imageTooLong :=
  (step_reset hhost).trans (if_neg (Nat.not_le.mpr hlong))

theorem construct_reg (x : Reg) : (s.construct image).reg x = 0#8 := Vector.getElem_replicate x.isLt

theorem construct_stack (j : Fin 16) : (s.construct image).stack[j.val] = 0#16 := Vector.getElem_replicate j.isLt

theorem construct_keyDown (k : Key) : (s.construct image).keyDown k = false := Vector.getElem_replicate k.isLt

theorem construct_pixel (r c : Nat) : pixel (s.construct image).disp r c = false := pixel_clearDisplay r c

/-- The machine runs at once (R141). -/
theorem construct_running : (s.construct image).Running := ⟨rfl, rfl, rfl, rfl⟩

/-- Both bytes of the first instruction are within memory (R144). -/
theorem construct_canAccess : (s.construct image).canAccess ((s.construct image).pc.toNat + 1) :=
  .inr (show (0x0200#16).toNat + 1 < 4096 by decide)

variable (hfits : image.length ≤ 3584)
include hfits

theorem construct_image {j : Nat} (hj : j < image.length) : memRead (s.construct image).mem (0x200 + j) = image[j] :=
  memRead_loadImage reset_mem_wf (show 0x200 + image.length ≤ 4096 by omega) hj

/-- Outside the image memory reads as the font and zeros (R141). -/
theorem construct_outside {a : Nat} (ha : a < 0x200 ∨ 0x200 + image.length ≤ a) :
    memRead (s.construct image).mem a = memDefault a :=
  memRead_loadImage_of_outside reset_mem_wf (show 0x200 + image.length ≤ 4096 by omega) ha

end

/-! ## Every iteration answers a next state (R118, R123) -/

theorem Result.unlessFaulted_answers {r : Result} {f : State → Result} (hr : ∃ s, r = .next s)
    (hf : ∀ s, ∃ t, f s = .next t) : ∃ t, Result.unlessFaulted r f = .next t := by
  obtain ⟨s, rfl⟩ := hr
  rw [Result.unlessFaulted_next]
  cases s.faulted with
  | true => exact ⟨s, rfl⟩
  | false => exact hf s

theorem executeOne_answers (s : State) : ∃ t, executeOne s = .next t := by
  obtain ⟨t, ht, -⟩ := executeOne_ends s
  exact ⟨t, ht⟩

theorem applyEvent_answers (e : Event) (s : State) : ∃ t, applyEvent e s = .next t := by
  cases e with
  | keyPress | keyRelease | pauseToggle | exitRequest => exact ⟨_, rfl⟩
  | singleStep =>
    by_cases h : s.paused = true ∧ s.waiting = false ∧ s.halt = false
    · obtain ⟨t, ht⟩ := executeOne_answers s
      exact ⟨t, (singleStep_of_enabled h).trans ht⟩
    · exact ⟨s, singleStep_of_not_enabled h⟩

theorem applyEvents_answers (es : List Event) (s : State) : ∃ t, applyEvents es s = .next t := by
  induction es generalizing s with
  | nil => exact ⟨s, rfl⟩
  | cons e es ih => exact Result.unlessFaulted_answers (applyEvent_answers e s) ih

theorem instructionPhase_answers (s : State) : ∃ t, instructionPhase s = .next t := by
  rw [instructionPhase]
  split
  · exact executeOne_answers _
  · exact ⟨s, rfl⟩

theorem iterateNow_answers (events : List Event) (s : State) : ∃ t, iterateNow events s = .next t := by
  cases hs : s.stopped with
  | true => exact ⟨s, iterateNow_stopped events s hs⟩
  | false =>
    rw [iterateNow, hs, if_neg Bool.false_ne_true]
    exact Result.unlessFaulted_answers (applyEvents_answers events s) fun t =>
      Result.unlessFaulted_answers (instructionPhase_answers t) fun u => ⟨u.timerPhase, rfl⟩

/-- Past the end of the host's list a step is an iteration without events (notes/assumptions/4.md). -/
theorem step_of_host_nil {s : State} (hhost : s.host = []) :
    step s = iterateNow [] (s.sampled s.params.tInstr []) := by
  rw [step_eq, State.nextInput, hhost]; rfl

/-! ## The step that executes the instruction at PC (R45, R123) -/

/-- Events of a running machine and the moved deadline leave the fetch as it was (R45). -/
theorem executeOne_firingAfter {s : State} {i : Instr} (elapsed : Nat) (events : List Event) (rest : List HostInput)
    (hacc : s.canAccess (s.pc.toNat + 1))
    (hdec : decodeBytes (s.loadByte s.pc.toNat) (s.loadByte (s.pc.toNat + 1)) = .ok i) :
    executeOne (s.firingAfter elapsed events rest) = exec i (s.firingAfter elapsed events rest) := by
  rw [State.firingAfter, State.afterKeys_eq]
  exact executeOne_of_decodeBytes hacc hdec

/-- A step of a running machine whose instruction clock is due is the handler of the instruction at PC, then, unless it
faulted, the timer phase (R123, R125). -/
theorem step_of_decodeBytes {s : State} {elapsed : Nat} {events : List Event} {rest : List HostInput} {i : Instr}
    (hhost : s.host = .iterate elapsed events :: rest) (hk : KeysOnly events) (hr : s.Running)
    (hdue : s.iDeadline ≤ s.now + elapsed) (hacc : s.canAccess (s.pc.toNat + 1))
    (hdec : decodeBytes (s.loadByte s.pc.toNat) (s.loadByte (s.pc.toNat + 1)) = .ok i) :
    ∃ t, exec i (s.firingAfter elapsed events rest) = .next t ∧
      step s = .next (if t.faulted then t else t.timerPhase) := by
  obtain ⟨t, ht, -⟩ := exec_ends i (s.firingAfter elapsed events rest)
  refine ⟨t, ht, ?_⟩
  rw [step_of_due hhost hk hr hdue, executeOne_firingAfter elapsed events rest hacc hdec, ht,
    Result.unlessFaulted_next, apply_ite Host.Outcome.next]

/-! ## The statements -/

/-- Settles O46: the registers and flags by the machine built, memory by the loaded image and by what lies outside. -/
theorem resetBuildsTheMachine : Obligations.ResetBuildsTheMachine := by
  intro s elapsed image rest hhost hfits
  refine ⟨_, step_reset_of_fits hhost hfits, rfl, rfl, construct_reg, rfl, construct_stack, rfl, rfl,
    fun r c => construct_pixel r.val c.val, construct_keyDown, rfl, rfl, rfl, rfl, rfl, rfl, rfl,
    fun j hj => construct_image hfits hj, fun a ha => ?_, fun a ha => ?_⟩
  · rw [construct_outside hfits (.inl (by omega)), some_memDefault_eq_fontBytes ha]
  · rw [construct_outside hfits (by omega), memDefault_of_font_le (by omega)]

/-- Settles O47: the oversize reset, and the three other actions of the host. -/
theorem oversizeImageRefused : Obligations.OversizeImageRefused := by
  intro s
  refine ⟨fun _ _ _ hhost hlong => step_reset_of_oversize hhost hlong, fun hfits => ?_⟩
  match hhost : s.host with
  | [] =>
    rw [step_of_host_nil hhost]
    exact iterateNow_answers _ _
  | .iterate elapsed events :: rest =>
    rw [step_iterate hhost]
    exact iterateNow_answers _ _
  | .reset elapsed image :: rest =>
    exact ⟨_, step_reset_of_fits hhost (hfits elapsed image rest hhost)⟩

/-- Settles O48: the machine built runs and its instruction clock is due at once, so the next iteration executes the
word at 0x200. -/
theorem firstInstructionAtProgramBase : Obligations.FirstInstructionAtProgramBase := by
  intro s e1 e2 image events rest hhost hk hfits
  refine ⟨_, step_reset_of_fits hhost hfits, fun i hdec => ?_⟩
  exact step_of_decodeBytes rfl hk construct_running (Nat.le_add_right _ _) construct_canAccess hdec

end Sys2Proof.Machine
end

section
/-! SUPPORT and PROOFS. The decoder and the encoder against each other and against the opcode map
(spec/30_encoding.md R47, R49, R50): a word put together again from its fields, the fields that a row's mask keeps, and
the statements about them. -/

namespace Sys2Proof

/-! ## A word from its fields (R46, R47) -/

section
variable {w : Word} {op : Nibble} (h : (fieldOp w).val = op.toNat)
include h

theorem encodeA_fields : encodeA op (fieldNNN w) = w := by
  rw [fieldOp_val] at h
  apply BitVec.eq_of_toNat_eq
  rw [encodeA_toNat, fieldNNN_toNat]
  omega

theorem encodeI_fields : encodeI op (fieldX w) (fieldNN w) = w := by
  rw [fieldOp_val] at h
  apply BitVec.eq_of_toNat_eq
  rw [encodeI_toNat, fieldX_val, fieldNN_toNat]
  omega

theorem encodeR_fields : encodeR op (fieldX w) (fieldY w) (fieldN w) = w := by
  rw [fieldOp_val] at h
  apply BitVec.eq_of_toNat_eq
  rw [encodeR_toNat, fieldX_val, fieldY_val, fieldN_toNat]
  omega

end

/-! ## The families with a secondary selector (R49) -/

section
variable {w : Word}

theorem decodeWord_family0 (h : (fieldOp w).val = 0x0) : decodeWord w = .ok (decodeFamily0 (fieldNNN w)) := by
  simp only [decodeWord, h]

theorem decodeWord_family8 (h : (fieldOp w).val = 0x8) :
    decodeWord w = decodeFamily8 (fieldX w) (fieldY w) (fieldN w) := by
  simp only [decodeWord, h]

theorem decodeWord_familyE (h : (fieldOp w).val = 0xE) : decodeWord w = decodeFamilyE (fieldX w) (fieldNN w) := by
  simp only [decodeWord, h]

theorem decodeWord_familyF (h : (fieldOp w).val = 0xF) : decodeWord w = decodeFamilyF (fieldX w) (fieldNN w) := by
  simp only [decodeWord, h]

end

/-! ## What the secondary selectors give back (R49, R54) -/

theorem encode_decodeFamily0 (nnn : Addr12) :
    encode (decodeFamily0 nnn) = encodeA 0x0#4 nnn ∧ (decodeFamily0 nnn).wf = true := by
  unfold decodeFamily0
  split
  · next h => subst h; decide
  split
  · next h => subst h; decide
  split
  · next h => subst h; decide
  · next hhalt hcls hret => exact ⟨rfl, by simp [Instr.wf, hhalt, hcls, hret]⟩

theorem ite_ok_eq_ok_iff {c : Prop} [Decidable c] {i j : Instr} {r : Except DecodeReject Instr} :
    (if c then .ok j else r) = .ok i ↔ (c ∧ j = i) ∨ (¬ c ∧ r = .ok i) := by
  by_cases hc : c <;> simp [hc]

theorem encode_of_decodeFamily8 {x y : Reg} {n : Nibble} {i : Instr} (h : decodeFamily8 x y n = .ok i) :
    encode i = encodeR 0x8#4 x y n ∧ i.wf = true := by
  simp only [decodeFamily8, ite_ok_eq_ok_iff] at h
  repeat
    rcases h with ⟨rfl, rfl⟩ | ⟨-, h⟩
    · exact ⟨rfl, rfl⟩
  cases h

theorem encode_of_decodeFamilyE {x : Reg} {nn : Byte} {i : Instr} (h : decodeFamilyE x nn = .ok i) :
    encode i = encodeI 0xE#4 x nn ∧ i.wf = true := by
  simp only [decodeFamilyE, ite_ok_eq_ok_iff] at h
  repeat
    rcases h with ⟨rfl, rfl⟩ | ⟨-, h⟩
    · exact ⟨rfl, rfl⟩
  cases h

theorem encode_of_decodeFamilyF {x : Reg} {nn : Byte} {i : Instr} (h : decodeFamilyF x nn = .ok i) :
    encode i = encodeI 0xF#4 x nn ∧ i.wf = true := by
  simp only [decodeFamilyF, ite_ok_eq_ok_iff] at h
  repeat
    rcases h with ⟨rfl, rfl⟩ | ⟨-, h⟩
    · exact ⟨rfl, rfl⟩
  cases h

/-! ## What a row's mask keeps of a word (R50) -/

/-- A field on which the mask is all ones reads the same in the masked word. -/
theorem extractLsb'_and_mask {m : Word} {start len : Nat} (w : Word)
    (hm : m.extractLsb' start len = BitVec.allOnes len) :
    (w &&& m).extractLsb' start len = w.extractLsb' start len := by
  rw [BitVec.extractLsb'_and, hm, BitVec.and_allOnes]

/-- Every mask keeps the family nibble. -/
theorem fieldOp_and_opcodeMask (w : Word) (i : Instr) : fieldOp (w &&& opcodeMask i) = fieldOp w := by
  have hm : (opcodeMask i).extractLsb' 12 4 = BitVec.allOnes 4 := by
    cases i <;> (simp only [opcodeMask]; decide)
  rw [fieldOp, fieldOp, extractLsb'_and_mask w hm]

/-- The mask of a row of family 8 keeps the low nibble. -/
theorem fieldN_and_F00F (w : Word) : fieldN (w &&& 0xF00F#16) = fieldN w := extractLsb'_and_mask w (by decide)

/-- The mask of a row of family E or F keeps the low byte. -/
theorem fieldNN_and_F0FF (w : Word) : fieldNN (w &&& 0xF0FF#16) = fieldNN w := extractLsb'_and_mask w (by decide)

section
variable (op : Nibble) (x y : Reg) (n : Nibble) (nn : Byte) (nnn : Addr12)

/-! Each mask is the append of its fields' masks, and `&&&` goes through the append. -/

theorem encodeA_and_F000 : encodeA op nnn &&& 0xF000#16 = encodeA op 0#12 := by
  change op ++ nnn &&& BitVec.allOnes 4 ++ 0#12 = _
  rw [BitVec.and_append, BitVec.and_allOnes, BitVec.and_zero]
  rfl

theorem encodeI_and_F000 : encodeI op x nn &&& 0xF000#16 = encodeI op 0 0#8 := by
  change op ++ (BitVec.ofFin x : Nibble) ++ nn &&& BitVec.allOnes 4 ++ 0#4 ++ 0#8 = _
  rw [BitVec.and_append, BitVec.and_append, BitVec.and_allOnes, BitVec.and_zero, BitVec.and_zero]
  rfl

theorem encodeI_and_F0FF : encodeI op x nn &&& 0xF0FF#16 = encodeI op 0 nn := by
  change op ++ (BitVec.ofFin x : Nibble) ++ nn &&& BitVec.allOnes 4 ++ 0#4 ++ BitVec.allOnes 8 = _
  rw [BitVec.and_append, BitVec.and_append, BitVec.and_allOnes, BitVec.and_zero, BitVec.and_allOnes]
  rfl

theorem encodeR_and_F000 : encodeR op x y n &&& 0xF000#16 = encodeR op 0 0 0#4 := by
  change (op ++ (BitVec.ofFin x : Nibble) ++ (BitVec.ofFin y : Nibble) ++ n &&&
    BitVec.allOnes 4 ++ 0#4 ++ 0#4 ++ 0#4 : Word) = _
  rw [BitVec.and_append, BitVec.and_append, BitVec.and_append, BitVec.and_allOnes, BitVec.and_zero, BitVec.and_zero,
    BitVec.and_zero]
  rfl

theorem encodeR_and_F00F : encodeR op x y n &&& 0xF00F#16 = encodeR op 0 0 n := by
  change (op ++ (BitVec.ofFin x : Nibble) ++ (BitVec.ofFin y : Nibble) ++ n &&&
    BitVec.allOnes 4 ++ 0#4 ++ 0#4 ++ BitVec.allOnes 4 : Word) = _
  rw [BitVec.and_append, BitVec.and_append, BitVec.and_append, BitVec.and_allOnes, BitVec.and_zero, BitVec.and_zero,
    BitVec.and_allOnes]
  rfl

end

/-- The word of an instruction satisfies its own row (R50). -/
theorem encode_and_opcodeMask (i : Instr) : encode i &&& opcodeMask i = opcodeMatch i := by
  cases i with
  | halt | cls | ret => decide
  | sys | jp | call | ldI | jpV0 => exact (encodeA_and_F000 _ _).trans rfl
  | seImm | sneImm | ldImm | addImm | rnd => exact (encodeI_and_F000 _ _ _).trans rfl
  | skp | sknp | ldVxDt | ldVxK | ldDtVx | ldStVx | addI | ldF | ldB | ldStore | ldLoad =>
    exact (encodeI_and_F0FF _ _ _).trans rfl
  | seReg | sneReg | drw => exact (encodeR_and_F000 _ _ _ _).trans rfl
  | ldReg | orReg | andReg | xorReg | addReg | subReg | shrReg | subnReg | shlReg =>
    exact (encodeR_and_F00F _ _ _ _).trans rfl

/-! ## The statements -/

/-- Settles O2: each form's word gives back its family, its operands and its selector. -/
theorem decodeOfEncode : Obligations.DecodeOfEncode := by
  intro i hwf
  cases i with
  | halt | cls | ret => decide
  | sys nnn =>
    simp only [Instr.wf, Bool.and_eq_true, bne_iff_ne, and_assoc] at hwf
    obtain ⟨hhalt, hcls, hret⟩ := hwf
    simp [encode, decodeWord, decodeFamily0, hhalt, hcls, hret]
  | jp | call | seImm | sneImm | seReg | ldImm | addImm | sneReg | ldI | jpV0 | rnd | drw => simp [encode, decodeWord]
  | ldReg | orReg | andReg | xorReg | addReg | subReg | shrReg | subnReg | shlReg =>
    simp [encode, decodeWord, decodeFamily8]
  | skp | sknp => simp [encode, decodeWord, decodeFamilyE]
  | ldVxDt | ldVxK | ldDtVx | ldStVx | addI | ldF | ldB | ldStore | ldLoad =>
    simp [encode, decodeWord, decodeFamilyF]

/-- Settles O3: the decoder's branch fixes the family, and the fields that the instruction carries fix the rest. -/
theorem encodeOfDecode : Obligations.EncodeOfDecode := by
  intro w i h
  unfold decodeWord at h
  split at h
  case h_1 hop =>
    cases h
    obtain ⟨henc, hwf⟩ := encode_decodeFamily0 (fieldNNN w)
    exact ⟨henc.trans (encodeA_fields hop), hwf⟩
  case h_2 hop | h_3 hop | h_11 hop | h_12 hop => cases h; exact ⟨encodeA_fields hop, rfl⟩
  case h_4 hop | h_5 hop | h_7 hop | h_8 hop | h_13 hop => cases h; exact ⟨encodeI_fields hop, rfl⟩
  case h_6 hop | h_10 hop | h_14 hop => cases h; exact ⟨encodeR_fields hop, rfl⟩
  case h_9 hop =>
    obtain ⟨henc, hwf⟩ := encode_of_decodeFamily8 h
    exact ⟨henc.trans (encodeR_fields hop), hwf⟩
  case h_15 hop =>
    obtain ⟨henc, hwf⟩ := encode_of_decodeFamilyE h
    exact ⟨henc.trans (encodeI_fields hop), hwf⟩
  case h_16 =>
    have hop : (fieldOp w).val = 15 := by simp only [imp_false] at *; omega
    obtain ⟨henc, hwf⟩ := encode_of_decodeFamilyF h
    exact ⟨henc.trans (encodeI_fields hop), hwf⟩

/-- Settles O5: a decoded word is the word of its instruction, which satisfies its row; and the fields that a row's mask
keeps are the ones the decoder dispatches on. -/
theorem decodeFollowsOpcodeMap : Obligations.DecodeFollowsOpcodeMap := by
  constructor
  · intro w i h
    obtain ⟨henc, -⟩ := encodeOfDecode w i h
    rw [← henc]
    exact encode_and_opcodeMask i
  intro w i h hsys
  have hop : (fieldOp w).val = (opcodeMatch i).toNat / 4096 := by rw [← fieldOp_val, ← h, fieldOp_and_opcodeMask]
  -- With the constants of the row written out, the selectors evaluate.
  cases i <;> simp only [opcodeMatch] at h hop
  case halt | cls | ret =>
    obtain rfl := (BitVec.and_allOnes (x := w)).symm.trans h
    exact ⟨_, rfl, rfl, rfl⟩
  case sys nnn =>
    obtain ⟨hhalt, hcls, hret⟩ := hsys ⟨nnn, rfl⟩
    have hw : encodeA 0x0#4 (fieldNNN w) = w := encodeA_fields hop
    have hne {a : Addr12} {v : Word} (hv : w ≠ v) (ha : encodeA 0x0#4 a = v) : fieldNNN w ≠ a := fun e =>
      hv (by rw [← hw, e, ha])
    refine ⟨.sys (fieldNNN w), ?_, rfl, rfl⟩
    rw [decodeWord_family0 hop, decodeFamily0, if_neg (hne hhalt rfl), if_neg (hne hcls rfl), if_neg (hne hret rfl)]
  case jp | call | seImm | sneImm | seReg | ldImm | addImm | sneReg | ldI | jpV0 | rnd | drw =>
    simp [decodeWord, hop, opcodeMatch, opcodeMask]
  case ldReg | orReg | andReg | xorReg | addReg | subReg | shrReg | subnReg | shlReg =>
    have hn := (fieldN_and_F00F w).symm.trans (congrArg fieldN h)
    rw [decodeWord_family8 hop, hn]
    exact ⟨_, rfl, rfl, rfl⟩
  case skp | sknp =>
    have hnn := (fieldNN_and_F0FF w).symm.trans (congrArg fieldNN h)
    rw [decodeWord_familyE hop, hnn]
    exact ⟨_, rfl, rfl, rfl⟩
  case ldVxDt | ldVxK | ldDtVx | ldStVx | addI | ldF | ldB | ldStore | ldLoad =>
    have hnn := (fieldNN_and_F0FF w).symm.trans (congrArg fieldNN h)
    rw [decodeWord_familyF hop, hnn]
    exact ⟨_, rfl, rfl, rfl⟩

/-- Settles O1: each word is one evaluation of the decoder. -/
theorem decodesWrittenOutWords : Obligations.DecodesWrittenOutWords := by
  unfold Obligations.DecodesWrittenOutWords
  decide

end Sys2Proof
end

section
/-! SUPPORT and PROOFS. One execution of the engine as its fetch decides it (spec/30_encoding.md section 1), and what
comes back: the word stored at PC, the caller after a return, the registers of a block store, the display after a second
draw. -/

namespace Sys2Proof.Machine

/-! ## The fetch (R31, R32, R45) -/

theorem composeWord_toNat (hi lo : Byte) : (composeWord hi lo).toNat = hi.toNat * 256 + lo.toNat :=
  append_toNat hi lo

section
variable {s : State}

theorem State.fetch_of_not_canAccess (h : ¬ s.canAccess (s.pc.toNat + 1)) :
    s.fetch = .error (BitVec.ofNat 16 (max s.pc.toNat 4096)) := by
  have hout : ¬ (s.params.addrPolicy = .wrap4096 ∨ 2 = 0 ∨ s.pc.toNat + 2 ≤ Config.memSize) := fun hin =>
    h (hin.imp_right fun hle => hle.resolve_left (by decide))
  rw [State.fetch, State.outOfRange_eq, if_neg hout]
  rfl

theorem executeOne_of_fetch_error {a : Word} (hfetch : s.fetch = .error a) :
    executeOne s = .next (s.raise .addressFault a) := by
  simp only [executeOne, hfetch]

theorem executeOne_of_decode_ok {w : Word} {i : Instr} (hfetch : s.fetch = .ok w) (hdec : decodeWord w = .ok i) :
    executeOne s = exec i s := by
  simp only [executeOne, hfetch, hdec]

end

/-! ## SHL as numbers (R82) -/

theorem byte_shiftLeft_one_toNat (a : Byte) : (a <<< 1).toNat = 2 * a.toNat % 256 := by
  rw [BitVec.toNat_shiftLeft, Nat.shiftLeft_eq, Nat.pow_one, Nat.mul_comm]

/-- The flag is bit 7 where it stands. -/
theorem shlFlag_toNat (a : Byte) : (shlFlag a).toNat = if 0x80 ≤ a.toNat then 0x80 else 0 := by
  have hflag : shlFlag a = if a.msb then BitVec.twoPow 8 7 else 0#8 := BitVec.and_twoPow a 7
  rw [hflag, BitVec.msb_eq_decide]
  by_cases h : 0x80 ≤ a.toNat <;> simp [h]

/-! ## A RET right after a CALL (R62, R64) -/

/-- The state in which CALL at depth j and then RET leave the machine: its own address in entry j, PC two past it. -/
theorem exec_ret_after_call {s : State} {j : Fin 16} (nnn : Addr12) (h : s.sp.val = j.val) :
    exec .ret (((s.setStack j s.pc).setSp j.succ).setPc (addressOperand nnn)) =
      .next ((s.setStack j s.pc).setPc (s.pc + 2#16)) := by
  have hsp : j.castSucc = s.sp := Fin.ext h.symm
  have hentry : (((s.setStack j s.pc).setSp j.succ).setPc (addressOperand nnn)).stack[j.val] = s.pc := by simp
  rw [exec_ret_of_sp_eq_succ (j := j) rfl, hsp, hentry]
  rfl

/-! ## A second draw at the same place (R94) -/

section
variable (s : State) (cx cy n : Nat)

/-- A draw writes no byte, so the sprite at I covers what it covered. -/
theorem spriteCovers_drawn (r : Fin 32) (c : Fin 64) :
    SpriteCovers (s.drawn cx cy n).advance cx cy n r c ↔ SpriteCovers s cx cy n r c := Iff.rfl

variable {n} (hn : n ≤ 32)
include hn

theorem pixel_drawn_drawn (r : Fin 32) (c : Fin 64) :
    pixel ((s.drawn cx cy n).advance.drawn cx cy n).disp r.val c.val = pixel s.disp r.val c.val := by
  classical
  rw [pixel_drawn _ cx cy hn, State.advance_disp, pixel_drawn s cx cy hn]
  by_cases h : SpriteCovers s cx cy n r c <;> simp [spriteCovers_drawn, h]

/-- After the first draw a covered pixel is on exactly where it was off before. -/
theorem exists_covered_on_drawn_iff :
    (∃ r c, SpriteCovers (s.drawn cx cy n).advance cx cy n r c ∧
        pixel (s.drawn cx cy n).advance.disp r.val c.val = true) ↔
      ∃ r c, SpriteCovers s cx cy n r c ∧ pixel s.disp r.val c.val = false := by
  classical
  refine exists_congr fun r => exists_congr fun c => ?_
  rw [spriteCovers_drawn, State.advance_disp, pixel_drawn s cx cy hn]
  refine and_congr_right fun hcov => ?_
  rw [if_pos hcov, Bool.not_eq_true']

end

/-! ## The statements -/

/-- Settles O7: the fetch is out of memory, or its word decodes, or it does not. -/
theorem executeOneFetchesBigEndian : Obligations.ExecuteOneFetchesBigEndian := by
  intro s
  constructor
  · intro hout
    exact ⟨_, executeOne_of_fetch_error (State.fetch_of_not_canAccess hout), raise_raisedFault s _ _⟩
  · intro hin w hw
    obtain rfl : w = composeWord (s.loadByte s.pc.toNat) (s.loadByte (s.pc.toNat + 1)) :=
      BitVec.eq_of_toNat_eq (hw.trans (composeWord_toNat _ _).symm)
    constructor
    · intro i hdec
      exact executeOne_of_decodeBytes hin hdec
    · intro e hdec
      exact ⟨_, executeOne_of_decode_error (State.fetch_of_canAccess hin) hdec, raise_raisedFault s _ _⟩

/-- Settles O8: every execution ends in one of the ways of `ExecEnds`, each of them a next state. -/
theorem execAlwaysAnswers : Obligations.ExecAlwaysAnswers := fun i s =>
  (exec_ends i s).imp fun _ h => h.1

/-- Settles O15: the double and the raw bit 7 of V[x]; y stands in neither. -/
theorem shiftLeftKeepsRawBit : Obligations.ShiftLeftKeepsRawBit := fun x _ s =>
  ⟨_, rfl, writeResultAndFlag_advance s x (byte_shiftLeft_one_toNat _) (shlFlag_toNat _)⟩

/-- Settles O22: the pop finds the CALL's own address in the entry the push wrote, and lowers SP to where it was. -/
theorem returnComesBackFromCall : Obligations.ReturnComesBackFromCall := fun nnn s j h =>
  ⟨_, _, exec_call_of_sp_eq nnn h, exec_ret_after_call nnn h, rfl, rfl,
    (changes_setStack s j s.pc).append (changes_setPc _ _)⟩

/-- Settles O29: the block store's bytes are the ones the block load reads, at the same I and under the same policy. -/
theorem blockLoadUndoesBlockStore : Obligations.BlockLoadUndoesBlockStore := by
  intro x s u hwf hacc
  obtain ⟨hstore, -⟩ := blockStore x s hwf
  obtain ⟨t, ht, hbytes, -, hframe⟩ := hstore hacc
  refine ⟨t, ht, fun hmem hi hparams => ?_⟩
  have hti : t.i = s.i := hframe .addrI (by simp)
  have htparams : t.params = s.params := hframe .params (by simp)
  obtain ⟨hload, -⟩ := blockLoad x u
  obtain ⟨w, hw, hregs, -⟩ := hload (by rw [State.canAccess, hparams, htparams, hi, hti]; exact hacc)
  refine ⟨w, hw, fun k hk => ?_⟩
  rw [hregs k hk, hmem, hi, hti, hbytes k hk]

/-- Settles O30: both stored bytes read back, the first one under the second store too, and the store moves neither PC
nor the policy. -/
theorem storesAreFetched : Obligations.StoresAreFetched := by
  intro s hi lo hwf hacc
  have hread (k : Nat) (hk : k < 2) := memRead_storeBytes [hi, lo] s.pc.toNat k s hwf (by simp) hk
  refine ⟨composeWord hi lo, ?_, composeWord_toNat hi lo⟩
  rw [State.fetch_of_canAccess (s := (s.storeByte s.pc.toNat hi).storeByte (s.pc.toNat + 1) lo) hacc]
  exact congrArg Except.ok (congrArg₂ composeWord (hread 0 (by decide)) (hread 1 (by decide)))

/-- Settles O33: the second draw finds the first one's sprite at the first one's place and flips every covered pixel
back. -/
theorem doubleDrawRestoresDisplay : Obligations.DoubleDrawRestoresDisplay := by
  classical
  intro x y x2 y2 n s hacc
  have hrows : n.toNat ≤ 32 := by omega
  refine (exec_drw x y n s fun hx hy => ?_).1 hacc
  refine (exec_drw x2 y2 n _ ?_).1 hacc
  rw [hx, hy]
  refine ⟨fun r c => pixel_drawn_drawn s _ _ hrows r c, fun hoff => ?_, fun hnone => ?_⟩
  · rw [State.reg_advance, reg_vf_drawn _ _ _ hrows, if_pos ((exists_covered_on_drawn_iff s _ _ hrows).mpr hoff)]
  · rw [State.reg_advance, reg_vf_drawn _ _ _ hrows, if_neg (mt (exists_covered_on_drawn_iff s _ _ hrows).mp hnone)]

end Sys2Proof.Machine
end

section
/-! SUPPORT and PROOFS. What one execution of an instruction can do: which fault it raises and what it keeps where it
raises none (spec/60_exceptions.md section 1), and which pieces of state it writes (spec/10_state.md section 1). -/

namespace Sys2Proof.Machine

/-! ## SYS, RET and CALL, each with its fault (R61, R62, R64) -/

section
variable {s t : State}

theorem exec_sys_cases {nnn : Addr12} (h : exec (.sys nnn) s = .next t) :
    (s.params.sysPolicy = .fault ∧ t = s.raise .decodeFault (addressOperand nnn)) ∨
      (s.params.sysPolicy = .nop ∧ t = s.advance) := by
  cases hp : s.params.sysPolicy with
  | fault => rw [exec_sys_of_fault nnn hp] at h; cases h; exact .inl ⟨rfl, rfl⟩
  | nop => rw [exec_sys_of_nop nnn hp] at h; cases h; exact .inr ⟨rfl, rfl⟩

theorem exec_ret_cases (h : exec .ret s = .next t) :
    (s.sp = 0 ∧ t = s.raise .stackUnderflow 0#16) ∨
      ∃ j : Fin 16, s.sp.val = j.val + 1 ∧ t = (s.setSp j.castSucc).setPc (s.stack[j.val] + 2#16) := by
  by_cases hs : s.sp = 0
  · rw [exec_ret_of_empty hs] at h; cases h; exact .inl ⟨hs, rfl⟩
  · obtain ⟨j, hj⟩ := Fin.exists_succ_eq.mpr hs
    have hj : s.sp.val = j.val + 1 := by rw [← hj]; rfl
    rw [exec_ret_of_sp_eq_succ hj] at h; cases h; exact .inr ⟨j, hj, rfl⟩

theorem exec_call_cases {nnn : Addr12} (h : exec (.call nnn) s = .next t) :
    (s.sp = 16 ∧ t = s.raise .stackOverflow 0#16) ∨
      ∃ j : Fin 16, s.sp.val = j.val ∧ t = ((s.setStack j s.pc).setSp j.succ).setPc (addressOperand nnn) := by
  by_cases hs : s.sp = 16
  · rw [exec_call_of_full nnn hs] at h; cases h; exact .inl ⟨hs, rfl⟩
  · have hj : s.sp.val < 16 := by have := s.sp.isLt; have := Fin.val_ne_of_ne hs; omega
    rw [exec_call_of_sp_eq (j := ⟨s.sp.val, hj⟩) nnn rfl] at h; cases h
    exact .inr ⟨⟨s.sp.val, hj⟩, rfl, rfl⟩

end

/-! ## The fault of each handler (R111, R117) -/

/-- The fault c with its info is the one that the handler of i raises at s: the cause table of R111. -/
def OwnFault (i : Instr) (s : State) (info : Word) : FaultCause → Prop
  | .noFault => False
  | .decodeFault => (∃ nnn, i = .sys nnn) ∧ info = encode i
  | .stackUnderflow => i = .ret ∧ s.sp.val = 0 ∧ info = 0#16
  | .stackOverflow => (∃ nnn, i = .call nnn) ∧ s.sp.val = 16 ∧ info = 0#16
  | .addressFault =>
    ((∃ x y n, i = .drw x y n) ∨ ∃ x, i = .ldB x ∨ i = .ldStore x ∨ i = .ldLoad x) ∧
      info.toNat = max s.i.toNat 4096
  | .keyIndexFault => ∃ x, (i = .skp x ∨ i = .sknp x) ∧ 16 ≤ (s.reg x).toNat ∧ info.toNat = (s.reg x).toNat

/-- What every execution without a fault keeps: the fault registers, and the canonical form of memory. -/
structure Completes (s t : State) : Prop where
  /-- `FAULT_CAUSE`. -/
  faultCause : t.faultCause = s.faultCause
  /-- `FAULT_PC`. -/
  faultPc : t.faultPc = s.faultPc
  /-- `FAULT_INFO`. -/
  faultInfo : t.faultInfo = s.faultInfo
  /-- Memory. -/
  memory : Memory.wf s.mem = true → Memory.wf t.mem = true

/-- The execution of i that leads from s to t raised the fault of i's own handler and did nothing else, or it completed
(R117, R118). -/
def FaultsOrCompletes (i : Instr) (s t : State) : Prop :=
  (∃ c info, OwnFault i s info c ∧ t = s.raise c info) ∨ Completes s t

section
variable {i : Instr} {s : State}

theorem FaultsOrCompletes.of_raise {c : FaultCause} {info : Word} (h : OwnFault i s info c) :
    FaultsOrCompletes i s (s.raise c info) :=
  .inl ⟨c, info, h, rfl⟩

theorem Completes.of_skipIf (c : Bool) : Completes s (s.skipIf c) := by
  rw [State.skipIf_eq]; exact ⟨rfl, rfl, rfl, id⟩

theorem Completes.of_writeResultAndFlag (x : Reg) (r f : Byte) : Completes s (s.writeResultAndFlag x r f).advance := by
  rw [State.writeResultAndFlag_eq]; exact ⟨rfl, rfl, rfl, id⟩

/-- An access that is done completes; one out of range raises AddressFault with the lowest address out of range. -/
theorem FaultsOrCompletes.of_accessing {done : State} (n : Nat)
    (hi : (∃ x y n, i = .drw x y n) ∨ ∃ x, i = .ldB x ∨ i = .ldStore x ∨ i = .ldLoad x) (h : Completes s done) :
    FaultsOrCompletes i s (s.accessing s.i.toNat n done) := by
  rcases s.accessing_cases s.i.toNat n done with ⟨_, e⟩ | ⟨a, ha, e⟩ <;> rw [e]
  · exact .inr h
  · rw [State.outOfRange_eq] at ha
    split at ha <;> cases ha
    have hword : max s.i.toNat 4096 < 65536 := max_lt s.i.isLt (by decide)
    exact .of_raise ⟨hi, Nat.mod_eq_of_lt hword⟩

/-- A key skip on V[x] raises KeyIndexFault where V[x] is no key index. -/
theorem FaultsOrCompletes.of_skipOnKey {x : Reg} (down : Bool) (hi : i = .skp x ∨ i = .sknp x) :
    FaultsOrCompletes i s (s.skipOnKey (s.reg x) down) := by
  by_cases hk : (s.reg x).toNat < 16
  · rw [s.skipOnKey_of_eq (k := ⟨(s.reg x).toNat, hk⟩) down rfl]
    exact .inr (.of_skipIf _)
  · have hge : 16 ≤ (s.reg x).toNat := Nat.not_lt.mp hk
    rw [s.skipOnKey_of_ge down hge, ← wordOperand_eq_ofNat]
    exact .of_raise ⟨x, hi, hge, wordOperand_toNat _⟩

end

/-- Every execution raises the fault of its own handler or completes. -/
theorem exec_faultsOrCompletes {i : Instr} {s t : State} (h : exec i s = .next t) : FaultsOrCompletes i s t := by
  cases i with
  | sys nnn =>
    rcases exec_sys_cases h with ⟨-, rfl⟩ | ⟨-, rfl⟩
    · exact .of_raise ⟨⟨nnn, rfl⟩, (encode_sys nnn).symm⟩
    · exact .inr ⟨rfl, rfl, rfl, id⟩
  | ret =>
    rcases exec_ret_cases h with ⟨hs, rfl⟩ | ⟨j, -, rfl⟩
    · exact .of_raise ⟨rfl, congrArg Fin.val hs, rfl⟩
    · exact .inr ⟨rfl, rfl, rfl, id⟩
  | call nnn =>
    rcases exec_call_cases h with ⟨hs, rfl⟩ | ⟨j, -, rfl⟩
    · exact .of_raise ⟨⟨nnn, rfl⟩, congrArg Fin.val hs, rfl⟩
    · exact .inr ⟨rfl, rfl, rfl, id⟩
  | seImm | sneImm | seReg | sneReg => cases h; exact .inr (.of_skipIf _)
  | skp x => cases h; exact .of_skipOnKey _ (.inl rfl)
  | sknp x => cases h; exact .of_skipOnKey _ (.inr rfl)
  | addReg | subReg | shrReg | subnReg | shlReg => cases h; exact .inr (.of_writeResultAndFlag _ _ _)
  | rnd => cases h; rw [State.afterDraw_eq]; exact .inr ⟨rfl, rfl, rfl, id⟩
  | ldB x =>
    cases h
    refine .of_accessing _ (.inr ⟨x, .inl rfl⟩) ?_
    have hmem := storeBytes_wf s.i.toNat (bcdDigits (s.reg x)) s
    rw [storeBytes_eq]
    exact ⟨rfl, rfl, rfl, hmem⟩
  | ldStore x =>
    cases h
    refine .of_accessing _ (.inr ⟨x, .inr (.inl rfl)⟩) ?_
    have hmem := storeRegs_wf s.i.toNat (regsUpTo x) s
    rw [storeRegs_eq]
    exact ⟨rfl, rfl, rfl, hmem⟩
  | ldLoad x =>
    cases h
    refine .of_accessing _ (.inr ⟨x, .inr (.inr rfl)⟩) ?_
    rw [loadRegs_eq]
    exact ⟨rfl, rfl, rfl, id⟩
  | drw x y n => cases h; exact .of_accessing _ (.inl ⟨x, y, n, rfl⟩) ⟨rfl, rfl, rfl, id⟩
  | halt | cls | jp | jpV0 | ldImm | addImm | ldReg | orReg | andReg | xorReg | ldI | addI | ldF | ldVxDt | ldVxK
  | ldDtVx | ldStVx => cases h; exact .inr ⟨rfl, rfl, rfl, id⟩

/-- Where no fault was recorded before, a recorded one is the handler's own. -/
theorem FaultsOrCompletes.ownFault {i : Instr} {s t : State} (h : FaultsOrCompletes i s t)
    (hs : s.faultCause = .noFault) (ht : t.faultCause ≠ .noFault) : OwnFault i s t.faultInfo t.faultCause := by
  rcases h with ⟨c, info, hown, rfl⟩ | hdone
  · exact hown
  · exact absurd (hdone.faultCause.trans hs) ht

/-! ## The pieces each instruction writes (spec/10_state.md section 1) -/

/-- A replaced memory touches bytes alone. -/
theorem changes_setMem (s : State) (m : Memory) : ChangesOnly (fun q => ∃ a, q = .byte a) s (s.setMem m) := by
  intro q hq
  cases q with
  | byte a => exact absurd ⟨a, rfl⟩ hq
  | randomPort => exact ⟨rfl, rfl⟩
  | _ => exact rfl

section
variable {i : Instr} {s t : State}

theorem writes_setPc (hi : i ≠ .halt) (w : Word) : ChangesOnly (WrittenBy i) s (s.setPc w) :=
  (changes_setPc s w).mono fun _ hq => hq ▸ hi

/-- An update of pieces that i writes, after which PC goes on. -/
theorem writes_advance {p : Piece → Prop} (h : ChangesOnly p s t) (hi : i ≠ .halt) (hp : ∀ q, p q → WrittenBy i q) :
    ChangesOnly (WrittenBy i) s t.advance :=
  (h.mono hp).trans (writes_setPc hi _)

theorem writes_raise (hi : CanFault i) (c : FaultCause) (info : Word) : ChangesOnly (WrittenBy i) s (s.raise c info) :=
  (changes_setFault s c s.pc info).mono fun q hq => by
    cases q with
    | faultCause | faultPc | faultInfo => exact hi
    | _ => exact hq.elim

theorem writes_skipIf (hi : i ≠ .halt) (c : Bool) : ChangesOnly (WrittenBy i) s (s.skipIf c) :=
  (changes_skipIf s c).mono fun _ hq => hq ▸ hi

theorem writes_skipOnKey (hi : CanFault i) (hpc : i ≠ .halt) (b : Byte) (down : Bool) :
    ChangesOnly (WrittenBy i) s (s.skipOnKey b down) := by
  unfold State.skipOnKey
  split
  exacts [writes_raise hi _ _, writes_skipIf hpc _]

theorem writes_accessing (hi : CanFault i) (base n : Nat) (h : ChangesOnly (WrittenBy i) s t) :
    ChangesOnly (WrittenBy i) s (s.accessing base n t) := by
  rcases s.accessing_cases base n t with ⟨_, e⟩ | ⟨a, _, e⟩ <;> rw [e]
  exacts [h, writes_raise hi _ _]

end

/-! ## The statements -/

/-- Settles O38: a fault recorded by an execution is its own handler's, and its cause says which row of R111 that is. -/
theorem eachHandlerRaisesItsOwnFault : Obligations.EachHandlerRaisesItsOwnFault := by
  intro i s t hs h
  have hown {c : FaultCause} (hc : t.faultCause = c) (hne : c ≠ .noFault) : OwnFault i s t.faultInfo c := by
    subst hc
    exact (exec_faultsOrCompletes h).ownFault hs hne
  exact ⟨fun hc => hown hc (by decide), fun hc => hown hc (by decide), fun hc => hown hc (by decide),
    fun hc => hown hc (by decide), fun hc => hown hc (by decide)⟩

/-- Settles O45: each instruction's updates, one after the other, against its column of the table. -/
theorem everyPieceHasItsWriters : Obligations.EveryPieceHasItsWriters := by
  intro i s t h
  cases i with
  | halt => cases h; exact (changes_setHalt s true).mono fun _ hq => hq ▸ rfl
  | cls =>
    cases h
    refine writes_advance (changes_setDisp s _) (by decide) ?_
    rintro _ ⟨r, c, rfl⟩
    exact .inl rfl
  | sys nnn =>
    rcases exec_sys_cases h with ⟨-, rfl⟩ | ⟨-, rfl⟩
    · exact writes_raise (.inl ⟨nnn, .inl rfl⟩) _ _
    · exact writes_setPc (by nofun) _
  | ret =>
    rcases exec_ret_cases h with ⟨-, rfl⟩ | ⟨j, -, rfl⟩
    · exact writes_raise (.inr (.inl rfl)) _ _
    · exact ((changes_setSp s _).mono fun _ hq => hq ▸ .inl rfl).trans (writes_setPc (by nofun) _)
  | call nnn =>
    rcases exec_call_cases h with ⟨-, rfl⟩ | ⟨j, -, rfl⟩
    · exact writes_raise (.inl ⟨nnn, .inr rfl⟩) _ _
    · refine (((changes_setStack s _ _).append (changes_setSp _ _)).mono ?_).trans (writes_setPc (by nofun) _)
      rintro _ (rfl | rfl)
      exacts [⟨nnn, rfl⟩, .inr ⟨nnn, rfl⟩]
  | jp | jpV0 => cases h; exact writes_setPc (by nofun) _
  | seImm | sneImm | seReg | sneReg => cases h; exact writes_skipIf (by nofun) _
  | skp x => cases h; exact writes_skipOnKey (by simp [CanFault]) (by nofun) _ _
  | sknp x => cases h; exact writes_skipOnKey (by simp [CanFault]) (by nofun) _ _
  | ldImm | addImm | ldReg | orReg | andReg | xorReg | ldVxDt =>
    cases h
    exact writes_advance (changes_setReg s _ _) (by nofun) (by simp [WrittenBy, HasDestination])
  | addReg | subReg | shrReg | subnReg | shlReg =>
    cases h
    exact writes_advance (changes_writeResultAndFlag s _ _ _) (by nofun)
      (by simp [WrittenBy, HasDestination, WritesFlag])
  | rnd =>
    cases h
    exact writes_advance ((changes_afterDraw s).append (changes_setReg _ _ _)) (by nofun)
      (by simp [WrittenBy, HasDestination])
  | ldI | addI | ldF => cases h; exact writes_advance (changes_setI s _) (by nofun) (by simp [WrittenBy])
  | ldDtVx => cases h; exact writes_advance (changes_setDt s _) (by nofun) (by simp [WrittenBy])
  | ldStVx => cases h; exact writes_advance (changes_setSt s _) (by nofun) (by simp [WrittenBy])
  | ldVxK =>
    cases h
    exact writes_advance ((changes_setWaiting s true).append (changes_setWaitReg _ _)) (by nofun) (by simp [WrittenBy])
  | ldB =>
    cases h
    rw [storeBytes_eq]
    exact writes_accessing (by simp [CanFault]) _ _
      (writes_advance (changes_setMem s _) (by nofun) (by simp [WrittenBy]))
  | ldStore =>
    cases h
    rw [storeRegs_eq]
    exact writes_accessing (by simp [CanFault]) _ _
      (writes_advance (changes_setMem s _) (by nofun) (by simp [WrittenBy]))
  | ldLoad x =>
    cases h
    refine writes_accessing (by simp [CanFault]) _ _ (writes_advance (changes_loadRegs _ _ s) (by nofun) ?_)
    rintro _ ⟨k, hk, rfl⟩
    exact .inl (by simp [HasDestination, ← mem_regsUpTo, hk])
  | drw =>
    cases h
    refine writes_accessing (by simp [CanFault]) _ _
      (writes_advance ((changes_setDisp s _).append (changes_setReg _ vf _)) (by nofun) ?_)
    rintro _ (⟨r, c, rfl⟩ | rfl) <;> simp [WrittenBy, WritesFlag]

end Sys2Proof.Machine
end

section
/-! SUPPORT and PROOFS. One iteration as its events leave the machine (spec/60_exceptions.md section 4): dead, without
an instruction, or with one instruction; and what the timer phase and a waiting machine do. -/

namespace Sys2Proof.Machine

/-! ## The two clocks where they are not due, and where the instruction clock is (R123, R125, R126) -/

section
variable {s : State}

theorem State.timerPhase_of_not_due (h : s.now < s.tDeadline) : s.timerPhase = s :=
  if_neg (by simp [State.timerDue, Nat.not_le.mpr h])

theorem instructionPhase_of_not_due (h : s.now < s.iDeadline) : instructionPhase s = .next s :=
  if_neg (by simp [State.instructionDue, Nat.not_le.mpr h])

theorem instructionPhase_of_due (hr : s.Running) (hdue : s.iDeadline ≤ s.now) :
    instructionPhase s = executeOne (s.setIDeadline (s.iDeadline + s.params.tInstr)) := by
  obtain ⟨-, hhalt, hpaused, hwaiting⟩ := hr
  exact if_pos (by simp [State.instructionDue, hhalt, hpaused, hwaiting, hdue])

theorem changes_timerPhase : ChangesOnly (fun q => q = .dt ∨ q = .st ∨ q = .tDeadline) s s.timerPhase := by
  cases hp : s.paused with
  | true => rw [State.timerPhase_of_paused hp]; exact ChangesOnly.refl _ s
  | false =>
    rcases Nat.lt_or_ge s.now s.tDeadline with hlt | hdue
    · rw [State.timerPhase_of_not_due hlt]; exact ChangesOnly.refl _ s
    · obtain ⟨-, -, -, hframe⟩ := timerPhase_countedOnce hp hdue
      exact hframe

theorem State.timerPhase_iDeadline : s.timerPhase.iDeadline = s.iDeadline := by rw [State.timerPhase_eq]

end

/-! ## The step of a live machine, by what its events leave (R123) -/

section
variable {s u : State} {elapsed : Nat} {events : List Event} {rest : List HostInput}
  (hf : s.faultCause = .noFault) (hh : s.halt = false) (hhost : s.host = .iterate elapsed events :: rest)
  (he : applyEvents events (s.sampled elapsed rest) = .next u)
include hf hh hhost he

/-- A fault among the events ends the iteration. -/
theorem step_of_faulted_events (hu : u.faultCause ≠ .noFault) : step s = .next u := by
  have hlive : (s.sampled elapsed rest).stopped = false := by
    simp [State.stopped, State.faulted, State.sampled, hf, hh]
  rw [step_iterate hhost, iterateNow, hlive, if_neg Bool.false_ne_true, he, Result.unlessFaulted_next,
    (State.faulted_iff u).mpr hu, if_pos rfl]

/-- Where the events leave the machine running and due, one execution of the engine and, unless it faulted, the timer
phase. -/
theorem step_of_due_events (hr : u.Running) (hdue : u.iDeadline ≤ u.now) :
    ∃ t, executeOne (u.setIDeadline (u.iDeadline + u.params.tInstr)) = .next t ∧
      step s = .next (if t.faulted then t else t.timerPhase) := by
  obtain ⟨t, ht⟩ := executeOne_answers (u.setIDeadline (u.iDeadline + u.params.tInstr))
  have ⟨hu, _⟩ := hr
  refine ⟨t, ht, ?_⟩
  rw [step_of_events hf hh hhost he hu, instructionPhase_of_due hr hdue, ht, Result.unlessFaulted_next,
    apply_ite Host.Outcome.next]

/-- Where the events leave the machine paused, waiting, halted or short of its deadline, the timer phase alone. -/
theorem step_of_idle_events (hu : u.faultCause = .noFault)
    (hidle : u.paused = true ∨ u.waiting = true ∨ u.halt = true ∨ u.now < u.iDeadline) :
    step s = .next u.timerPhase := by
  refine step_of_idle_phase hf hh hhost he hu ?_
  rcases hidle with hp | hw | hhalt | hlt
  · exact instructionPhase_of_paused hp
  · exact instructionPhase_of_waiting hw
  · exact instructionPhase_of_halt hhalt
  · exact instructionPhase_of_not_due hlt

end

/-- Key events and single steps leave the clocks of a running machine as they were, and leave it running. -/
theorem afterKeys_running {s : State} (events : List Event) (hr : s.Running) : (s.afterKeys events).Running := by
  rw [State.afterKeys_eq]; exact hr

/-! ## The key wait (R129) -/

/-- An event that lifts a wait is a press. -/
theorem applyEvent_lifts_wait {e : Event} {s t : State} (hw : s.waiting = true) (h : applyEvent e s = .next t)
    (ht : t.waiting = false) : ∃ k, e = .keyPress k := by
  cases e with
  | keyPress k => exact ⟨k, rfl⟩
  | keyRelease | exitRequest => cases h; exact absurd (hw.symm.trans ht) (by decide)
  | pauseToggle =>
    cases hp : s.paused with
    | false =>
      cases (applyEvent_pauseToggle_of_running hp).symm.trans h
      exact absurd (hw.symm.trans ht) (by decide)
    | true =>
      cases (applyEvent_pauseToggle_of_paused hp).symm.trans h
      exact absurd (hw.symm.trans ht) (by decide)
  | singleStep =>
    cases (singleStep_of_not_enabled (by simp [hw])).symm.trans h
    exact absurd (hw.symm.trans ht) (by decide)

section
variable {s : State} {elapsed : Nat} {rest : List HostInput} (hw : s.waiting = true)
include hw

theorem step_waiting_of_no_events (hh : s.halt = false) (hf : s.faultCause = .noFault)
    (hhost : s.host = .iterate elapsed [] :: rest) : step s = .next (s.sampled elapsed rest).timerPhase :=
  step_of_idle_events hf hh hhost rfl hf (.inr (.inl hw))

/-- Dead, halted or live, an iteration without events of a waiting machine is at most its timer phase. -/
theorem step_waiting_frame (hhost : s.host = .iterate elapsed [] :: rest) :
    ∃ t, step s = .next t ∧
      ChangesOnly (fun q => q = .dt ∨ q = .st ∨ q = .tDeadline ∨ q = .now ∨ q = .host) s t := by
  have hsampled := (changes_sampled s elapsed rest).mono
    (p' := fun q => q = .dt ∨ q = .st ∨ q = .tDeadline ∨ q = .now ∨ q = .host)
    fun _ hq => .inr (.inr (.inr hq))
  by_cases hf : s.faultCause = .noFault
  · cases hh : s.halt with
    | true => exact ⟨_, step_of_halt hh hhost, hsampled⟩
    | false =>
      refine ⟨_, step_waiting_of_no_events hw hh hf hhost, hsampled.trans (changes_timerPhase.mono ?_)⟩
      rintro q (h | h | h) <;> simp [h]
  · exact ⟨_, step_of_fault hf hhost, hsampled⟩

/-- A press lifts the wait, and a due instruction runs in the same iteration. -/
theorem step_waiting_of_keyPress {k : Key} (hp : s.paused = false) (hh : s.halt = false)
    (hf : s.faultCause = .noFault) (hhost : s.host = .iterate elapsed [.keyPress k] :: rest)
    (hdue : s.iDeadline ≤ s.now + elapsed) :
    ∃ t, executeOne ((s.firing elapsed rest).keyPress k) = .next t ∧
      step s = .next (if t.faulted then t else t.timerPhase) := by
  have hpress := State.keyPress_of_waiting (s := s.sampled elapsed rest) k hw
  have hrun : ((s.sampled elapsed rest).keyPress k).Running := by rw [hpress]; exact ⟨hf, hh, hp, rfl⟩
  have he : applyEvents [.keyPress k] (s.sampled elapsed rest) = .next ((s.sampled elapsed rest).keyPress k) := by
    have ⟨hlive, _⟩ := hrun
    exact applyEvents_cons_of_noFault [] rfl hlive
  have hfire : ((s.sampled elapsed rest).keyPress k).setIDeadline (s.iDeadline + s.params.tInstr) =
      (s.firing elapsed rest).keyPress k := by
    rw [hpress, State.keyPress_of_waiting (s := s.firing elapsed rest) k hw]
    rfl
  have hstep := step_of_due_events hf hh hhost he hrun (by rw [hpress]; exact hdue)
  rw [hpress] at hstep hfire
  rw [← hfire]
  exact hstep

end

/-! ## The statements -/

/-- Settles O44: the waiting machine's instruction phase, its iteration without events, and the press that lifts it. -/
theorem waitingSuspendsInstructions : Obligations.WaitingSuspendsInstructions :=
  ⟨fun _ hw => instructionPhase_of_waiting hw,
    fun _ _ _ hw hh hf hhost => step_waiting_of_no_events hw hh hf hhost,
    fun _ _ _ hw hhost => step_waiting_frame hw hhost,
    fun _ _ _ hw h ht => applyEvent_lifts_wait hw h ht,
    fun _ _ _ _ hw hp hh hf hhost hdue => step_waiting_of_keyPress hw hp hh hf hhost hdue⟩

/-- Settles O53: the events of such an iteration touch keys alone, so that only the deadline decides. -/
theorem oneInstructionPerDeadline : Obligations.OneInstructionPerDeadline := by
  intro s elapsed events rest hr hk hhost
  have ⟨hf, hh, _⟩ := hr
  have he := applyEvents_keysOnly (s := s.sampled elapsed rest) hr hk
  have hrun := afterKeys_running (s := s.sampled elapsed rest) events hr
  have hkeys := State.afterKeys_eq events (s.sampled elapsed rest)
  constructor
  · intro hlt
    have ⟨hlive, _⟩ := hrun
    have hearly : ((s.sampled elapsed rest).afterKeys events).now <
        ((s.sampled elapsed rest).afterKeys events).iDeadline := by rw [hkeys]; exact hlt
    refine ⟨_, step_of_idle_events hf hh hhost he hlive (.inr (.inr (.inr hearly))), rfl, ?_⟩
    rw [State.timerPhase_iDeadline, hkeys]
    rfl
  · intro hdue
    obtain ⟨t, ht⟩ := executeOne_answers (s.firingAfter elapsed events rest)
    have hstep := step_of_due hhost hk hr hdue
    rw [ht, Result.unlessFaulted_next, ← apply_ite Host.Outcome.next] at hstep
    refine ⟨t, _, ht, hstep, ?_, rfl⟩
    rw [apply_ite State.iDeadline, State.timerPhase_iDeadline, ite_self]
    exact (executeOne_sameClocks ht).iDeadline

/-- Settles O6: the word at PC is the one fetched in the firing state. -/
theorem stepRunsDecodedInstruction : Obligations.StepRunsDecodedInstruction :=
  fun _ _ _ _ _ hhost hk hr hdue hacc hdec => step_of_decodeBytes hhost hk hr hdue hacc hdec

/-- Settles O43: the countdown where the timer clock is due, and the two ways in which it is not. -/
theorem timersCountDownToZero : Obligations.TimersCountDownToZero :=
  ⟨fun _ hp hdue => timerPhase_countedOnce hp hdue,
    fun _ h => h.elim State.timerPhase_of_paused State.timerPhase_of_not_due⟩

/-- Settles O54: the events one by one, and the step by what they leave. -/
theorem eventsThenBothClocks : Obligations.EventsThenBothClocks := by
  refine ⟨fun s => rfl, fun e es s t h => ?_, fun s elapsed events rest hhost => ⟨?_, fun hf hh => ?_⟩⟩
  · rw [applyEvents, h, Result.unlessFaulted_next]
  · rintro (hf | hh)
    · exact step_of_fault hf hhost
    · exact step_of_halt hh hhost
  · obtain ⟨u, he⟩ := applyEvents_answers events (s.sampled elapsed rest)
    exact ⟨u, he, step_of_faulted_events hf hh hhost he, step_of_idle_events hf hh hhost he,
      step_of_due_events hf hh hhost he⟩

end Sys2Proof.Machine
end

section
/-! SUPPORT and PROOFS. What every step keeps: what a step is, the induction over an iteration, and the parameters and
the invariant by it (spec/10_state.md section 4, spec/60_exceptions.md sections 1, 3 and 4). -/

namespace Sys2Proof.Machine

/-! ## What a step is (R123, R140) -/

/-- A step that answers a next state is an iteration from a sampled state, or a reset with an image that fits. -/
theorem step_cases {s t : State} (h : step s = .next t) :
    (∃ elapsed events rest, iterateNow events (s.sampled elapsed rest) = .next t) ∨
      ∃ elapsed image rest, image.length ≤ 3584 ∧ t = (s.sampled elapsed rest).construct image := by
  match hhost : s.host with
  | [] => exact .inl ⟨_, _, _, (step_of_host_nil hhost).symm.trans h⟩
  | .iterate elapsed events :: rest => exact .inl ⟨_, _, _, (step_iterate hhost).symm.trans h⟩
  | .reset elapsed image :: rest =>
    rcases Nat.lt_or_ge 3584 image.length with hlong | hfits
    · cases (step_reset_of_oversize hhost hlong).symm.trans h
    · cases (step_reset_of_fits hhost hfits).symm.trans h
      exact .inr ⟨elapsed, image, rest, hfits, rfl⟩

/-! ## What holds through an iteration (R123) -/

/-- What a live machine's actions within an iteration keep: each event, the instruction with its moved deadline, and the
timer phase. -/
structure KeptByIteration (P : State → Prop) : Prop where
  /-- Each event. -/
  event : ∀ e s t, P s → s.faultCause = .noFault → applyEvent e s = .next t → P t
  /-- The instruction of a due clock. -/
  instruction : ∀ s t, P s → s.faultCause = .noFault → s.halt = false → s.iDeadline ≤ s.now →
    executeOne (s.setIDeadline (s.iDeadline + s.params.tInstr)) = .next t → P t
  /-- The timer phase. -/
  timers : ∀ s, P s → s.faultCause = .noFault → P s.timerPhase

section
variable {P : State → Prop} (hP : KeptByIteration P)
include hP

theorem KeptByIteration.applyEvents {es : List Event} {s t : State} (hs : P s) (hf : s.faultCause = .noFault)
    (h : applyEvents es s = .next t) : P t := by
  induction es generalizing s with
  | nil => cases h; exact hs
  | cons e es ih =>
    obtain ⟨u, hu, ⟨-, rfl⟩ | ⟨hlive, h⟩⟩ := Result.unlessFaulted_cases h
    · exact hP.event e s _ hs hf hu
    · exact ih (hP.event e s u hs hf hu) ((State.faulted_eq_false_iff u).mp hlive) h

theorem KeptByIteration.instructionPhase {s t : State} (hs : P s) (hf : s.faultCause = .noFault)
    (h : instructionPhase s = .next t) : P t := by
  rw [Machine.instructionPhase] at h
  split at h
  · next hdue =>
    simp only [State.instructionDue, Bool.and_eq_true, Bool.not_eq_true', decide_eq_true_eq] at hdue
    obtain ⟨⟨-, hh⟩, hdue⟩ := hdue
    exact hP.instruction s t hs hf hh hdue h
  · cases h; exact hs

theorem KeptByIteration.iterateNow {events : List Event} {s t : State} (hs : P s)
    (h : iterateNow events s = .next t) : P t := by
  rcases iterateNow_cases h with ⟨-, rfl⟩ | ⟨hlive, u, hu, h⟩
  · exact hs
  have hf : s.faultCause = .noFault := by
    rw [State.stopped, Bool.or_eq_false_iff] at hlive
    obtain ⟨hlive, -⟩ := hlive
    exact (State.faulted_eq_false_iff s).mp hlive
  have hPu := hP.applyEvents hs hf hu
  rcases h with ⟨-, rfl⟩ | ⟨huf, w, hw, h⟩
  · exact hPu
  have hPw := hP.instructionPhase hPu ((State.faulted_eq_false_iff u).mp huf) hw
  rcases h with ⟨-, rfl⟩ | ⟨hwf, rfl⟩
  · exact hPw
  · exact hP.timers w hPw ((State.faulted_eq_false_iff w).mp hwf)

end

/-! ## The parameters -/

theorem applyEvent_params {e : Event} {s t : State} (h : applyEvent e s = .next t) : t.params = s.params := by
  cases e with
  | keyPress k => cases h; rw [State.keyPress_eq]
  | keyRelease | exitRequest => cases h; rfl
  | pauseToggle =>
    cases h
    unfold State.pauseToggle
    split <;> rfl
  | singleStep =>
    by_cases hstep : s.paused = true ∧ s.waiting = false ∧ s.halt = false
    · exact (executeOne_sameClocks ((singleStep_of_enabled hstep).symm.trans h)).params
    · cases (singleStep_of_not_enabled hstep).symm.trans h
      rfl

theorem params_keptByIteration (p : Config.Params) : KeptByIteration fun s => s.params = p where
  event _ _ _ hs _ h := (applyEvent_params h).trans hs
  instruction _ _ hs _ _ _ h := (executeOne_sameClocks h).params.trans hs
  timers s hs _ := by rw [State.timerPhase_eq]; exact hs

/-! ## The invariant -/

/-- One execution of the engine raises a fault and does nothing else, or completes (R45, R118). -/
theorem executeOne_raises_or_completes {s t : State} (h : executeOne s = .next t) :
    (∃ c info, c ≠ .noFault ∧ t = s.raise c info) ∨ Completes s t := by
  rcases executeOne_cases s with ⟨a, _, e⟩ | ⟨w, _, _, _, e⟩ | ⟨w, i, _, _, e⟩ <;> rw [e] at h
  · cases h; exact .inl ⟨_, _, by decide, rfl⟩
  · cases h; exact .inl ⟨_, _, by decide, rfl⟩
  · refine (exec_faultsOrCompletes h).imp_left ?_
    rintro ⟨c, info, hown, rfl⟩
    exact ⟨c, info, fun hc => by rw [hc] at hown; exact hown, rfl⟩

section
variable {s t : State} (hinv : s.Inv)
include hinv

theorem State.Inv.after_raise (hh : s.halt = false) {c : FaultCause} (info : Word) (hc : c ≠ .noFault) :
    (s.raise c info).Inv :=
  { hinv with
    noFault := fun h => absurd h hc
    faultAtPc := fun _ => rfl
    notBoth := fun ⟨_, h⟩ => absurd (hh.symm.trans h) (by decide) }

theorem State.Inv.after_executeOne (hf : s.faultCause = .noFault) (hh : s.halt = false) (h : executeOne s = .next t) :
    t.Inv := by
  rcases executeOne_raises_or_completes h with ⟨c, info, hc, rfl⟩ | ⟨hcause, hpc, hinfo, hmem⟩
  · exact hinv.after_raise hh info hc
  · obtain ⟨hi, ht, -, hparams, hnow, -⟩ := executeOne_sameClocks h
    rw [hf] at hcause
    exact
      { memory := hmem hinv.memory
        instrPeriod := by rw [hparams]; exact hinv.instrPeriod
        timerPeriod := by rw [hparams]; exact hinv.timerPeriod
        instrDeadline := by rw [hi, hnow, hparams]; exact hinv.instrDeadline
        timerDeadline := by rw [ht, hnow, hparams]; exact hinv.timerDeadline
        noFault := fun _ => by rw [hpc, hinfo]; exact hinv.noFault hf
        faultAtPc := fun hne => absurd hcause hne
        notBoth := fun ⟨hne, _⟩ => hne hcause }

theorem State.Inv.after_applyEvent {e : Event} (hf : s.faultCause = .noFault) (h : applyEvent e s = .next t) :
    t.Inv := by
  cases e with
  | keyPress k => cases h; rw [State.keyPress_eq]; exact { hinv with }
  | keyRelease k => cases h; exact { hinv with }
  | pauseToggle =>
    cases hp : s.paused with
    | false => cases (applyEvent_pauseToggle_of_running hp).symm.trans h; exact { hinv with }
    | true =>
      cases (applyEvent_pauseToggle_of_paused hp).symm.trans h
      exact { hinv with instrDeadline := Nat.le_add_right _ _, timerDeadline := Nat.le_add_right _ _ }
  | singleStep =>
    by_cases hstep : s.paused = true ∧ s.waiting = false ∧ s.halt = false
    · have ⟨_, _, hh⟩ := hstep
      exact hinv.after_executeOne hf hh ((singleStep_of_enabled hstep).symm.trans h)
    · cases (singleStep_of_not_enabled hstep).symm.trans h
      exact hinv
  | exitRequest => cases h; exact { hinv with notBoth := fun ⟨hne, _⟩ => hne hf }

/-- A due deadline moved on by one period is at most one period ahead (R125). -/
theorem State.Inv.after_instruction (hf : s.faultCause = .noFault) (hh : s.halt = false) (hdue : s.iDeadline ≤ s.now)
    (h : executeOne (s.setIDeadline (s.iDeadline + s.params.tInstr)) = .next t) : t.Inv :=
  State.Inv.after_executeOne (s := s.setIDeadline (s.iDeadline + s.params.tInstr))
    { hinv with instrDeadline := Nat.add_le_add_right hdue _ } hf hh h

theorem State.Inv.after_timerPhase : s.timerPhase.Inv := by
  rw [State.timerPhase]
  split
  · next hdue =>
    simp only [State.timerDue, Bool.and_eq_true, decide_eq_true_eq] at hdue
    exact { hinv with timerDeadline := Nat.add_le_add_right hdue.2 _ }
  · exact hinv

theorem State.Inv.after_sampled (elapsed : Nat) (rest : List HostInput) : (s.sampled elapsed rest).Inv :=
  { hinv with
    instrDeadline := hinv.instrDeadline.trans (Nat.add_le_add_right (Nat.le_add_right _ _) _)
    timerDeadline := hinv.timerDeadline.trans (Nat.add_le_add_right (Nat.le_add_right _ _) _) }

/-- A reset builds canonical memory from an image that fits, and it keeps the periods (R140, R142). -/
theorem State.Inv.after_construct {image : List Byte} (hfits : image.length ≤ 3584) : (s.construct image).Inv where
  memory := by
    have hload := loadImage_eq_storeBytes (base := Config.progBase) (image := image) State.reset
      (show 0x200 + image.length ≤ 4096 by omega)
    exact (congrArg Memory.wf hload).trans (storeBytes_wf _ image _ reset_mem_wf)
  instrPeriod := hinv.instrPeriod
  timerPeriod := hinv.timerPeriod
  instrDeadline := Nat.le_add_right _ _
  timerDeadline := Nat.le_add_right _ _
  noFault _ := ⟨rfl, rfl⟩
  faultAtPc h := absurd rfl h
  notBoth := fun ⟨hne, _⟩ => hne rfl

end

theorem inv_keptByIteration : KeptByIteration State.Inv where
  event _ _ _ hinv hf h := hinv.after_applyEvent hf h
  instruction _ _ hinv hf hh hdue h := hinv.after_instruction hf hh hdue h
  timers _ hinv _ := hinv.after_timerPhase

/-! ## The statements -/

/-- Settles O50: an iteration keeps the invariant action by action, and a reset builds it anew. -/
theorem stepKeepsInvariant : Obligations.StepKeepsInvariant := by
  intro s t hinv h
  rcases step_cases h with ⟨elapsed, events, rest, h⟩ | ⟨elapsed, image, rest, hfits, rfl⟩
  · exact inv_keptByIteration.iterateNow (hinv.after_sampled elapsed rest) h
  · exact (hinv.after_sampled elapsed rest).after_construct hfits

/-- Settles O51: an iteration keeps the parameters action by action, and a reset takes them over. -/
theorem stepKeepsParameters : Obligations.StepKeepsParameters := by
  intro s t h
  rcases step_cases h with ⟨elapsed, events, rest, h⟩ | ⟨elapsed, image, rest, -, rfl⟩
  · exact (params_keptByIteration s.params).iterateNow (s := s.sampled elapsed rest) rfl h
  · rfl

/-- Settles O49: the reset state's fields are the literals the invariant asks for. -/
theorem resetMeetsInvariant : Obligations.ResetMeetsInvariant where
  memory := reset_mem_wf
  instrPeriod := by decide
  timerPeriod := by decide
  instrDeadline := Nat.zero_le _
  timerDeadline := Nat.zero_le _
  noFault _ := ⟨rfl, rfl⟩
  faultAtPc h := absurd rfl h
  notBoth := fun ⟨hne, _⟩ => hne rfl

end Sys2Proof.Machine
end

section
/-! SUPPORT and PROOFS. The untimed abstraction (spec/60_exceptions.md R131): no instruction and no event looks at a
deadline, at the time or at the host's list, so an iteration is a run of untimed steps up to those four. An iteration's
events after the machine has halted are still applied, where no untimed step is enabled any more; the untimed run takes
them first and halts last. -/

namespace Sys2Proof.Machine

theorem State.keyPress_of_not_waiting {s : State} (k : Key) (h : s.waiting = false) : s.keyPress k = s.setKey k true :=
  if_neg (by simp [h])

/-- A press and a halt commute (R122, R124). -/
theorem State.keyPress_setHalt (s : State) (k : Key) (b : Bool) :
    (s.setHalt b).keyPress k = (s.keyPress k).setHalt b := by
  cases hw : s.waiting with
  | true => rw [State.keyPress_of_waiting k hw, State.keyPress_of_waiting (s := s.setHalt b) k hw]; rfl
  | false => rw [State.keyPress_of_not_waiting k hw, State.keyPress_of_not_waiting (s := s.setHalt b) k hw]; rfl

/-! ## Executions do not look at what is forgotten (R7, R130) -/

section
variable (s : State)

/-! Reads of what is not forgotten. -/

@[simp] theorem State.forgetTime_pc : s.forgetTime.pc = s.pc := rfl
@[simp] theorem State.forgetTime_i : s.forgetTime.i = s.i := rfl
@[simp] theorem State.forgetTime_dt : s.forgetTime.dt = s.dt := rfl
@[simp] theorem State.reg_forgetTime (x : Reg) : s.forgetTime.reg x = s.reg x := rfl
@[simp] theorem State.rand8_forgetTime : s.forgetTime.rand8 = s.rand8 := rfl

/-! Updates of what is not forgotten. -/

@[simp] theorem State.setReg_forgetTime (x : Reg) (b : Byte) :
    s.forgetTime.setReg x b = (s.setReg x b).forgetTime := rfl
@[simp] theorem State.setI_forgetTime (w : Word) : s.forgetTime.setI w = (s.setI w).forgetTime := rfl
@[simp] theorem State.setPc_forgetTime (w : Word) : s.forgetTime.setPc w = (s.setPc w).forgetTime := rfl
@[simp] theorem State.setDt_forgetTime (b : Byte) : s.forgetTime.setDt b = (s.setDt b).forgetTime := rfl
@[simp] theorem State.setSt_forgetTime (b : Byte) : s.forgetTime.setSt b = (s.setSt b).forgetTime := rfl
@[simp] theorem State.setDisp_forgetTime (d : Display) : s.forgetTime.setDisp d = (s.setDisp d).forgetTime := rfl
@[simp] theorem State.setWaiting_forgetTime (b : Bool) :
    s.forgetTime.setWaiting b = (s.setWaiting b).forgetTime := rfl
@[simp] theorem State.setWaitReg_forgetTime (x : Reg) : s.forgetTime.setWaitReg x = (s.setWaitReg x).forgetTime := rfl
@[simp] theorem State.setHalt_forgetTime (b : Bool) : s.forgetTime.setHalt b = (s.setHalt b).forgetTime := rfl
@[simp] theorem State.raise_forgetTime (c : FaultCause) (info : Word) :
    s.forgetTime.raise c info = (s.raise c info).forgetTime := rfl

@[simp] theorem State.advance_forgetTime : s.forgetTime.advance = s.advance.forgetTime := by
  simp [State.advance_eq]

@[simp] theorem State.skipIf_forgetTime (c : Bool) : s.forgetTime.skipIf c = (s.skipIf c).forgetTime := by
  simp [State.skipIf_eq]

@[simp] theorem State.skipOnKey_forgetTime (b : Byte) (down : Bool) :
    s.forgetTime.skipOnKey b down = (s.skipOnKey b down).forgetTime := by
  unfold State.skipOnKey
  cases keyOperand b with
  | none => exact s.raise_forgetTime _ _
  | some k => exact s.skipIf_forgetTime (s.keyDown k == down)

@[simp] theorem State.writeResultAndFlag_forgetTime (x : Reg) (r f : Byte) :
    s.forgetTime.writeResultAndFlag x r f = (s.writeResultAndFlag x r f).forgetTime := by
  have hparams : s.forgetTime.params = s.params := rfl
  unfold State.writeResultAndFlag
  rw [hparams]
  cases s.params.vfOrder <;> rfl

@[simp] theorem State.afterDraw_forgetTime : s.forgetTime.afterDraw = s.afterDraw.forgetTime := by
  match h : s.rnd with
  | [] => rw [State.afterDraw_of_empty h, State.afterDraw_of_empty (s := s.forgetTime) h]; rfl
  | b :: bs => rw [State.afterDraw_of_listed h, State.afterDraw_of_listed (s := s.forgetTime) h]; rfl

@[simp] theorem storeBytes_forgetTime (base : Nat) (bs : List Byte) :
    storeBytes base bs s.forgetTime = (storeBytes base bs s).forgetTime := by
  induction bs generalizing base s with
  | nil => rfl
  | cons b bs ih => exact ih (s.storeByte base b) (base + 1)

@[simp] theorem storeRegs_forgetTime (base : Nat) (ks : List Reg) :
    storeRegs base ks s.forgetTime = (storeRegs base ks s).forgetTime := by
  induction ks generalizing s with
  | nil => rfl
  | cons k ks ih => exact ih (s.storeByte (base + k.val) (s.reg k))

@[simp] theorem loadRegs_forgetTime (base : Nat) (ks : List Reg) :
    loadRegs base ks s.forgetTime = (loadRegs base ks s).forgetTime := by
  induction ks generalizing s with
  | nil => rfl
  | cons k ks ih => exact ih (s.setReg k (s.loadByte (base + k.val)))

@[simp] theorem State.drawn_forgetTime (cx cy n : Nat) :
    s.forgetTime.drawn cx cy n = (s.drawn cx cy n).forgetTime := rfl

@[simp] theorem State.accessing_forgetTime (base n : Nat) (done : State) :
    s.forgetTime.accessing base n done.forgetTime = (s.accessing base n done).forgetTime := by
  have hrange : s.forgetTime.outOfRange base n = s.outOfRange base n := rfl
  unfold State.accessing
  rw [hrange]
  cases s.outOfRange base n <;> rfl

end

/-- An execution takes the state without time to its own result without time. -/
theorem exec_forgetTime {i : Instr} {s t : State} (h : exec i s = .next t) :
    exec i s.forgetTime = .next t.forgetTime := by
  cases i with
  | sys nnn =>
    rcases exec_sys_cases h with ⟨hp, rfl⟩ | ⟨hp, rfl⟩
    · exact exec_sys_of_fault (s := s.forgetTime) nnn hp
    · exact exec_sys_of_nop (s := s.forgetTime) nnn hp
  | ret =>
    rcases exec_ret_cases h with ⟨hs, rfl⟩ | ⟨j, hj, rfl⟩
    · exact exec_ret_of_empty (s := s.forgetTime) hs
    · exact exec_ret_of_sp_eq_succ (s := s.forgetTime) hj
  | call nnn =>
    rcases exec_call_cases h with ⟨hs, rfl⟩ | ⟨j, hj, rfl⟩
    · exact exec_call_of_full (s := s.forgetTime) nnn hs
    · exact exec_call_of_sp_eq (s := s.forgetTime) nnn hj
  | halt | cls | jp | seImm | sneImm | seReg | sneReg | jpV0 | ldImm | addImm | ldReg | orReg | andReg | xorReg
  | addReg | subReg | shrReg | subnReg | shlReg | rnd | drw | skp | sknp | ldVxDt | ldVxK | ldDtVx | ldStVx | ldI
  | addI | ldF | ldB | ldStore | ldLoad =>
    cases h
    simp [exec, execHalt, execCls, execJp, execSeImm, execSneImm, execSeReg, execSneReg, execJpV0, execLdImm,
      execAddImm, execLdReg, execOrReg, execAndReg, execXorReg, execAddReg, execSubReg, execShrReg, execSubnReg,
      execShlReg, execRnd, execDrw, execSkp, execSknp, execLdVxDt, execLdVxK, execLdDtVx, execLdStVx, execLdI,
      execAddI, execLdF, execLdB, execLdStore, execLdLoad]

/-- So does one execution of the engine (R45). -/
theorem executeOne_forgetTime {s t : State} (h : executeOne s = .next t) :
    executeOne s.forgetTime = .next t.forgetTime := by
  have hfetch : s.forgetTime.fetch = s.fetch := rfl
  rcases executeOne_cases s with ⟨a, hf, e⟩ | ⟨w, _, hf, hd, e⟩ | ⟨w, i, hf, hd, e⟩ <;> rw [e] at h <;>
    rw [← hfetch] at hf
  · cases h; exact executeOne_of_fetch_error hf
  · cases h; exact executeOne_of_decode_error hf hd
  · rw [executeOne_of_decode_ok hf hd]; exact exec_forgetTime h

/-! ## Two states that differ in time alone -/

/-- s and u agree on all that the untimed machine has (R131). -/
def SameButTime (s u : State) : Prop := s.forgetTime = u.forgetTime

section
variable {s u : State} (h : SameButTime s u)
include h

theorem SameButTime.stopped : s.stopped = u.stopped := (congrArg State.stopped h :)
theorem SameButTime.faulted : s.faulted = u.faulted := (congrArg State.faulted h :)
theorem SameButTime.halt : s.halt = u.halt := (congrArg State.halt h :)
theorem SameButTime.paused : s.paused = u.paused := (congrArg State.paused h :)
theorem SameButTime.waiting : s.waiting = u.waiting := (congrArg State.waiting h :)
theorem SameButTime.setKey (k : Key) (b : Bool) : SameButTime (s.setKey k b) (u.setKey k b) :=
  congrArg (State.setKey · k b) h
theorem SameButTime.setHalt (b : Bool) : SameButTime (s.setHalt b) (u.setHalt b) := congrArg (State.setHalt · b) h
theorem SameButTime.setPaused (b : Bool) : SameButTime (s.setPaused b) (u.setPaused b) :=
  congrArg (State.setPaused · b) h
theorem SameButTime.countTimers : SameButTime s.countTimers u.countTimers := congrArg State.countTimers h

end

theorem SameButTime.keyPress {s u : State} (h : SameButTime s u) (k : Key) :
    SameButTime (s.keyPress k) (u.keyPress k) := by
  cases hw : s.waiting with
  | true =>
    have hreg : s.waitReg = u.waitReg := (congrArg State.waitReg h :)
    rw [State.keyPress_of_waiting k hw, State.keyPress_of_waiting k (h.waiting.symm.trans hw), hreg]
    exact congrArg (fun v => ((State.setKey v k true).setReg u.waitReg (BitVec.ofNat 8 k.val)).setWaiting false) h
  | false =>
    rw [State.keyPress_of_not_waiting k hw, State.keyPress_of_not_waiting k (h.waiting.symm.trans hw)]
    exact h.setKey k true

/-- The timed toggle is the untimed one but for the deadlines (R127, R131). -/
theorem SameButTime.pauseToggle {s u : State} (h : SameButTime s u) :
    SameButTime s.pauseToggle (u.setPaused (!u.paused)) := by
  rw [State.pauseToggle, ← h.paused]
  cases s.paused <;> exact h.setPaused _

theorem SameButTime.executeOne {s t u : State} (h : SameButTime s u) (hs : executeOne s = .next t) :
    ∃ w, executeOne u = .next w ∧ SameButTime t w := by
  obtain ⟨w, hw⟩ := executeOne_answers u
  have hnext : (.next t.forgetTime : Result) = .next w.forgetTime := calc
    .next t.forgetTime = Machine.executeOne s.forgetTime := (executeOne_forgetTime hs).symm
    _ = Machine.executeOne u.forgetTime := congrArg Machine.executeOne h
    _ = .next w.forgetTime := executeOne_forgetTime hw
  exact ⟨w, hw, Host.Outcome.next.inj hnext⟩

/-! ## Untimed runs -/

section
variable {u v w : State} {e : UntimedEvent} {es fs : List UntimedEvent}

theorem untimedRun_cons (he : untimedEnabled e u = true) (hv : untimedEffect e u = .next v) :
    untimedRun (e :: es) u = untimedRun es v := by
  simp only [untimedRun, he, if_true, hv]

theorem untimedRun_append (hes : untimedRun es u = some v) : untimedRun (es ++ fs) u = untimedRun fs v := by
  induction es generalizing u with
  | nil => cases hes; rfl
  | cons e es ih =>
    rw [untimedRun] at hes
    split at hes
    · next he =>
      split at hes
      · next t ht => rw [List.cons_append, untimedRun_cons he ht, ih hes]
      · cases hes
      · cases hes
    · cases hes

end

/-! ## The events (R124, R131) -/

/-- The untimed step of an event. -/
def Event.untimed : Event → UntimedEvent
  | .keyPress k => .keyPress k
  | .keyRelease k => .keyRelease k
  | .pauseToggle => .pauseToggle
  | .singleStep => .singleStep
  | .exitRequest => .exitRequest

theorem untimedEnabled_event (e : Event) {u : State} (hu : u.stopped = false) :
    untimedEnabled e.untimed u = true := by
  cases e <;> simp [untimedEnabled, Event.untimed, hu]

/-- An event does what its untimed step does. -/
theorem applyEvent_untimed {e : Event} {s t u : State} (h : SameButTime s u) (ht : applyEvent e s = .next t) :
    ∃ w, untimedEffect e.untimed u = .next w ∧ SameButTime t w := by
  cases e with
  | keyPress k => cases ht; exact ⟨_, rfl, h.keyPress k⟩
  | keyRelease k => cases ht; exact ⟨_, rfl, h.setKey k false⟩
  | pauseToggle => cases ht; exact ⟨_, rfl, h.pauseToggle⟩
  | exitRequest => cases ht; exact ⟨_, rfl, h.setHalt true⟩
  | singleStep =>
    by_cases hstep : s.paused = true ∧ s.waiting = false ∧ s.halt = false
    · obtain ⟨w, hw, hsame⟩ := h.executeOne ((singleStep_of_enabled hstep).symm.trans ht)
      refine ⟨w, (singleStep_of_enabled ?_).trans hw, hsame⟩
      rwa [← h.paused, ← h.waiting, ← h.halt]
    · cases (singleStep_of_not_enabled hstep).symm.trans ht
      refine ⟨u, singleStep_of_not_enabled ?_, h⟩
      rwa [← h.paused, ← h.waiting, ← h.halt]

/-- An execution that halts the machine does nothing else (R60). -/
theorem executeOne_halts {s t : State} (h : executeOne s = .next t) : t.halt = s.halt ∨ t = s.setHalt true := by
  rcases executeOne_cases s with ⟨a, _, e⟩ | ⟨w, _, _, _, e⟩ | ⟨w, i, _, _, e⟩ <;> rw [e] at h
  · cases h; exact .inl rfl
  · cases h; exact .inl rfl
  · rcases execEnds_of_exec h with ⟨c, info, -, rfl⟩ | ⟨-, rfl | hkept⟩
    · exact .inl rfl
    · cases h; exact .inr rfl
    · exact .inl hkept

/-- So does an event that halts it. -/
theorem applyEvent_halts {e : Event} {s t : State} (h : applyEvent e s = .next t) :
    t.halt = s.halt ∨ t = s.setHalt true := by
  cases e with
  | keyPress k => cases h; rw [State.keyPress_eq]; exact .inl rfl
  | keyRelease k => cases h; exact .inl rfl
  | pauseToggle =>
    cases h
    unfold State.pauseToggle
    split <;> exact .inl rfl
  | exitRequest => cases h; exact .inr rfl
  | singleStep =>
    by_cases hstep : s.paused = true ∧ s.waiting = false ∧ s.halt = false
    · exact executeOne_halts ((singleStep_of_enabled hstep).symm.trans h)
    · cases (singleStep_of_not_enabled hstep).symm.trans h
      exact .inl rfl

/-- A halted state that the untimed machine reaches from v by an exit request, v itself not stopped. -/
def HaltsFrom (v s : State) : Prop := v.stopped = false ∧ SameButTime s (v.setHalt true)

/-- An event of a halted machine, taken by the untimed machine before it halts: itself, or, for a single step and a
second exit request, nothing (R122). -/
theorem applyEvent_halted_untimed {e : Event} {s t v : State} (hv : HaltsFrom v s) (h : applyEvent e s = .next t) :
    ∃ es w, untimedRun es v = some w ∧ HaltsFrom w t := by
  obtain ⟨hlive, hsame⟩ := hv
  have hrun {e' : UntimedEvent} {w : State} (he : untimedEnabled e' v = true) (hw : untimedEffect e' v = .next w) :
      untimedRun [e'] v = some w := untimedRun_cons he hw
  cases e with
  | keyPress k =>
    cases h
    refine ⟨[.keyPress k], _, hrun (untimedEnabled_event (.keyPress k) hlive) rfl, ?_, ?_⟩
    · rw [State.keyPress_eq]; exact hlive
    · rw [← State.keyPress_setHalt]; exact hsame.keyPress k
  | keyRelease k =>
    cases h
    exact ⟨[.keyRelease k], _, hrun (untimedEnabled_event (.keyRelease k) hlive) rfl, hlive, hsame.setKey k false⟩
  | pauseToggle =>
    cases h
    exact ⟨[.pauseToggle], _, hrun (untimedEnabled_event .pauseToggle hlive) rfl, hlive, hsame.pauseToggle⟩
  | singleStep =>
    cases (singleStep_of_not_enabled (by simp [hsame.halt])).symm.trans h
    exact ⟨[], v, rfl, hlive, hsame⟩
  | exitRequest => cases h; exact ⟨[], v, rfl, hlive, hsame.setHalt true⟩

theorem applyEvents_halted_untimed {es : List Event} {s t v : State} (hv : HaltsFrom v s)
    (h : applyEvents es s = .next t) : ∃ fs w, untimedRun fs v = some w ∧ HaltsFrom w t := by
  induction es generalizing s v with
  | nil => cases h; exact ⟨[], v, rfl, hv⟩
  | cons e es ih =>
    obtain ⟨s', hs', h⟩ := Result.unlessFaulted_cases h
    obtain ⟨fs, v', hfs, hv'⟩ := applyEvent_halted_untimed hv hs'
    rcases h with ⟨-, rfl⟩ | ⟨-, h⟩
    · exact ⟨fs, v', hfs, hv'⟩
    · obtain ⟨gs, w, hgs, hw⟩ := ih hv' h
      exact ⟨fs ++ gs, w, (untimedRun_append hfs).trans hgs, hw⟩

/-- The events of an iteration are an untimed run: each by its own step, until one halts the machine; from there on the
events left come first, and an exit request halts it last. -/
theorem applyEvents_untimed {es : List Event} {s t u : State} (hs : s.stopped = false) (h : SameButTime s u)
    (ht : applyEvents es s = .next t) : ∃ fs w, untimedRun fs u = some w ∧ SameButTime t w := by
  induction es generalizing s u with
  | nil => cases ht; exact ⟨[], u, rfl, h⟩
  | cons e es ih =>
    obtain ⟨s', hs', ht⟩ := Result.unlessFaulted_cases ht
    have hu : u.stopped = false := h.stopped.symm.trans hs
    obtain ⟨u', hu', h'⟩ := applyEvent_untimed h hs'
    have hstep {fs : List UntimedEvent} : untimedRun (e.untimed :: fs) u = untimedRun fs u' :=
      untimedRun_cons (untimedEnabled_event e hu) hu'
    rcases ht with ⟨-, rfl⟩ | ⟨hlive, ht⟩
    · exact ⟨[e.untimed], u', hstep, h'⟩
    cases hh : s'.halt with
    | false =>
      obtain ⟨fs, w, hfs, hw⟩ := ih (by rw [State.stopped, hlive, hh]; rfl) h' ht
      exact ⟨e.untimed :: fs, w, hstep.trans hfs, hw⟩
    | true =>
      have hhalt : s' = s.setHalt true := (applyEvent_halts hs').resolve_left fun hkept => by
        rw [State.stopped, ← hkept, hh, Bool.or_true] at hs
        cases hs
      subst hhalt
      obtain ⟨fs, w, hfs, hw, hsame⟩ := applyEvents_halted_untimed ⟨hu, h.setHalt true⟩ ht
      exact ⟨fs ++ [.exitRequest], w.setHalt true,
        (untimedRun_append hfs).trans (untimedRun_cons (untimedEnabled_event .exitRequest hw) rfl), hsame⟩

/-! ## The two clocks (R125, R126, R131) -/

/-- The instruction clock is one untimed instruction or nothing. -/
theorem instructionPhase_untimed {s t u : State} (hs : s.faulted = false) (h : SameButTime s u)
    (ht : instructionPhase s = .next t) : ∃ fs w, untimedRun fs u = some w ∧ SameButTime t w := by
  rw [instructionPhase] at ht
  split at ht
  · next hdue =>
    simp only [State.instructionDue, Bool.and_eq_true, Bool.not_eq_true', decide_eq_true_eq] at hdue
    obtain ⟨⟨⟨hp, hw⟩, hh⟩, -⟩ := hdue
    have henabled : untimedEnabled .iTick u = true := by
      rw [untimedEnabled, ← h.stopped, ← h.paused, ← h.waiting, State.stopped, hs, hh, hp, hw]; rfl
    obtain ⟨w, hw, hsame⟩ := SameButTime.executeOne (s := s.setIDeadline (s.iDeadline + s.params.tInstr)) h ht
    exact ⟨[.iTick], w, untimedRun_cons henabled hw, hsame⟩
  · cases ht; exact ⟨[], u, rfl, h⟩

/-- The timer clock is one untimed countdown or nothing; in a halting iteration the countdown is the further one. -/
theorem timerPhase_untimed {s u : State} (hs : s.faulted = false) (h : SameButTime s u) :
    ∃ fs last w v, untimedRun fs u = some w ∧ lastTimerTick last w = some v ∧ SameButTime s.timerPhase v := by
  rw [State.timerPhase]
  split
  · next hdue =>
    simp only [State.timerDue, Bool.and_eq_true, Bool.not_eq_true', decide_eq_true_eq] at hdue
    obtain ⟨hp, -⟩ := hdue
    have hcount : SameButTime (s.setTDeadline (s.tDeadline + s.params.tTimer)).countTimers u.countTimers :=
      SameButTime.countTimers (s := s.setTDeadline (s.tDeadline + s.params.tTimer)) h
    have hfault : u.faulted = false := h.faulted.symm.trans hs
    cases hh : s.halt with
    | false =>
      have henabled : untimedEnabled .tTick u = true := by
        rw [untimedEnabled, ← h.stopped, ← h.paused, State.stopped, hs, hh, hp]; rfl
      exact ⟨[.tTick], false, _, _, untimedRun_cons henabled rfl, rfl, hcount⟩
    | true =>
      refine ⟨[], true, u, _, rfl, ?_, hcount⟩
      rw [lastTimerTick, if_pos rfl, ← h.halt, hh, hfault, ← h.paused, hp]
      rfl
  · exact ⟨[], false, u, u, rfl, rfl, h⟩

/-! ## The statement -/

/-- Settles O52: the untimed run of the events, then that of the instruction clock, then that of the timer clock. -/
theorem timedRunsAreUntimedRuns : Obligations.TimedRunsAreUntimedRuns := by
  intro s t elapsed events hs h
  rcases iterateNow_cases h with ⟨hstopped, -⟩ | ⟨-, u, hu, h⟩
  · exact absurd (hs.symm.trans hstopped) (by decide)
  obtain ⟨es, w, hes, hw⟩ := applyEvents_untimed (s := s.setNow (s.now + elapsed)) (u := s) hs rfl hu
  rcases h with ⟨-, rfl⟩ | ⟨hlive, x, hx, h⟩
  · exact ⟨es, false, w, w, hes, rfl, hw.symm⟩
  obtain ⟨fs, y, hfs, hy⟩ := instructionPhase_untimed hlive hw hx
  have hrun : untimedRun (es ++ fs) s = some y := (untimedRun_append hes).trans hfs
  rcases h with ⟨-, rfl⟩ | ⟨hlive, rfl⟩
  · exact ⟨es ++ fs, false, y, y, hrun, rfl, hy.symm⟩
  obtain ⟨gs, last, z, v, hgs, hlast, hv⟩ := timerPhase_untimed hlive hy
  exact ⟨es ++ fs ++ gs, last, z, v, (untimedRun_append hrun).trans hgs, hlast, hv.symm⟩

end Sys2Proof.Machine
end
